-- ==== Sys2Proof/Word.lean ====
section
/-! DEFINITION. The word type of the machine (spec/00_scope.md R4, R7): a byte is 8 bits, bit 0 the
least significant; an address is a byte too. -/

namespace Sys2Proof

/-- `DATA_WIDTH` = 8 bits: the accumulator and every memory cell (R4). -/
abbrev Byte := BitVec 8

/-- `ADDR_WIDTH` = 8 bits: an address, `PC` and `SP` (R4); arithmetic on it is modulo 256 (R31). -/
abbrev Addr := BitVec 8

end Sys2Proof
end

