-- ==== Sys2Proof/Config.lean ====
section
/-! DEFINITION. The named constants of spec/00_scope.md R4, the decided parameters and the two
switches of R5, and the values that `State.reset` takes for the parameters R5 leaves open. -/

namespace Sys2Proof.Config

/-- `MEM_SIZE`: 256 bytes, the whole address space (R4, R30). -/
def memSize : Nat := 256

/-- `INSN_LEN`: every instruction is two bytes (R4, R50). -/
def insnLen : Byte := 2

/-- `SP_RESET` (R4, R15, R25). -/
def spReset : Byte := 0x5F

/-- `STACK_TOP_NOMINAL`: nominal only, no rule of the machine reads it (R4, R32). -/
def stackTopNominal : Byte := 0x60

/-- `VRAM_BASE`: first address of the video-mapped region (R4, R129). -/
def vramBase : Byte := 0xE0

/-- `VRAM_LAST`: last address of the video-mapped region, inclusive (R4, R129). -/
def vramLast : Byte := 0xFF

/-- `VBLANK_PERIOD`, in counted instructions (R4, R121). -/
def vblankPeriod : Nat := 64

/-- `VBLANK_LEN`, in counted instructions (R4, R121). -/
def vblankLen : Nat := 8

/-- `FB_WIDTH`: columns of the pixel grid (R4, R46). -/
abbrev fbWidth : Nat := 16

/-- `FB_HEIGHT`: rows of the pixel grid (R4, R46). -/
abbrev fbHeight : Nat := 16

/-- `N_OPCODES`: the defined opcodes, 0x00 to 0x0F and 0xFF (R4, R55). -/
def nOpcodes : Nat := 17

/-- The first invalid opcode byte (R56). -/
def invalidFirst : Byte := 0x10

/-- The last invalid opcode byte (R56). -/
def invalidLast : Byte := 0xFE

/-- The magic bytes of the program container, "T4C" (R176). -/
def magic : List Byte := [0x54, 0x34, 0x43]

/-- The container's header length (R176). -/
def headerLen : Nat := 8

/-- `LOAD_UPDATES_Z`: LOAD recomputes the zero flag (R5, D1, conflict C1; log entry 6). -/
def loadUpdatesZ : Bool := true

/-- `GATE_STACK_WRITES`: the writes of CALL and PUSH are not gated (R5, D2, conflict C4; log entry 7). -/
def gateStackWrites : Bool := false

/-- `RESET_CC` (R5, R25, D3; log entry 5). -/
def resetCc : Nat := 0

/-- `RESET_VB`, equal to `(RESET_CC mod 64) < 8` (R5, R25, D4; log entry 5). -/
def resetVb : Bool := decide (resetCc % vblankPeriod < vblankLen)

/-- `RESET_RUN` (R5, R25, D10; log entry 5). -/
def resetRun : Bool := true

/-- DESIGN CHOICE (unsafe; log entry 4): the value `State.reset` takes for `RESET_A`, which the
spec leaves open (R25, R26, D6). Claims quantify over it through `State.resetWith`. -/
def resetA : Byte := 0x00

/-- DESIGN CHOICE (unsafe; log entry 4): the value `State.reset` takes for `RESET_Z` (R25, D7). -/
def resetZ : Bool := false

/-- DESIGN CHOICE (unsafe; log entry 4): the value `State.reset` takes for `ENTRY` (R25, R171, D9). -/
def entry : Addr := 0x00

/-- DESIGN CHOICE (unsafe; log entry 3): what a memory byte that nothing has written reads as
(the spec leaves `RESET_MEM` open: R25, R26, D8). -/
def unlistedByte : Byte := 0x00

end Sys2Proof.Config
end

