-- ==== Sys2Proof/Syntax.lean ====
section
/-! DEFINITION. The instructions: one constructor per row of spec/opcode_table.json
(spec/30_encoding.md R55), the invalid row among them. -/

namespace Sys2Proof

/-- One constructor per row of the opcode map (R55). Every instruction is two bytes (R50), so every
constructor carries its second byte: an address where the row uses it (R53), and otherwise a byte
that is fetched and ignored, any value (R57, D18; log entry 12). -/
inductive Instr where
  /-- 0x00, R110. -/
  | nop (ignored : Byte)
  /-- 0x01, R80. -/
  | load (operand : Addr)
  /-- 0x02, R81. -/
  | store (operand : Addr)
  /-- 0x03, R85. -/
  | add (operand : Addr)
  /-- 0x04, R86. -/
  | sub (operand : Addr)
  /-- 0x05, R87. -/
  | cmp (operand : Addr)
  /-- 0x06, R88. -/
  | inc (ignored : Byte)
  /-- 0x07, R89. -/
  | dec (ignored : Byte)
  /-- 0x08, R95. -/
  | jmp (target : Addr)
  /-- 0x09, R96. -/
  | jz (target : Addr)
  /-- 0x0A, R97. -/
  | jnz (target : Addr)
  /-- 0x0B, R98. -/
  | call (target : Addr)
  /-- 0x0C, R99. -/
  | ret (ignored : Byte)
  /-- 0x0D, R111. -/
  | out (operand : Addr)
  /-- 0x0E, R105. -/
  | push (ignored : Byte)
  /-- 0x0F, R106. -/
  | pop (ignored : Byte)
  /-- 0xFF, R112. -/
  | halt (ignored : Byte)
  /-- 0x10 to 0xFE, R116: the table's row "(invalid)", with the offending opcode byte. -/
  | invalid (opcode : Byte) (ignored : Byte)
  deriving DecidableEq, Repr

/-- Why the decoder reads no instruction: every pair of bytes is one (R54), so only too few bytes. -/
inductive DecodeError where
  /-- Fewer than two bytes were given. Safe: a fetch always supplies two (R66). -/
  | truncated
  deriving DecidableEq, Repr

end Sys2Proof
end

