-- ==== Sys2Proof/WellFormed.lean ====
section
/-! DEFINITION. Which terms of `Instr` are instructions of the opcode map (spec/30_encoding.md R55,
R56). Every operand byte is legal with every opcode; the one check is that the opcode byte carried
by `invalid` is one of the 239 that R56 calls invalid. -/

namespace Sys2Proof

/-- The opcode byte is in 0x10 to 0xFE (R56). -/
def isInvalidOpcode (opcode : Byte) : Bool :=
  Config.invalidFirst.ule opcode && opcode.ule Config.invalidLast

/-- The check. -/
def Instr.wellFormed : Instr → Bool
  | .nop _ | .load _ | .store _ | .add _ | .sub _ | .cmp _ | .inc _ | .dec _ | .jmp _ | .jz _
  | .jnz _ | .call _ | .ret _ | .out _ | .push _ | .pop _ | .halt _ => true
  | .invalid opcode _ => isInvalidOpcode opcode

/-- A term that stands for an instruction of the opcode map. -/
abbrev Instr.WellFormed (i : Instr) : Prop := i.wellFormed = true

end Sys2Proof
end

