-- ==== Sys2Proof/Decode.lean ====
section
/-! DEFINITION. The decoder and the encoder (spec/30_encoding.md R50 to R57). -/

namespace Sys2Proof

/-! The opcode numbers, one named constant each (R4, R55, D26). -/

def Opcode.nop : Byte := 0x00
def Opcode.load : Byte := 0x01
def Opcode.store : Byte := 0x02
def Opcode.add : Byte := 0x03
def Opcode.sub : Byte := 0x04
def Opcode.cmp : Byte := 0x05
def Opcode.inc : Byte := 0x06
def Opcode.dec : Byte := 0x07
def Opcode.jmp : Byte := 0x08
def Opcode.jz : Byte := 0x09
def Opcode.jnz : Byte := 0x0A
def Opcode.call : Byte := 0x0B
def Opcode.ret : Byte := 0x0C
def Opcode.out : Byte := 0x0D
def Opcode.push : Byte := 0x0E
def Opcode.pop : Byte := 0x0F
def Opcode.halt : Byte := 0xFF

/-- The opcode map of R55, row by row: the opcode byte, and the instruction it makes of the second
byte. The opcode is compared whole, all eight bits (R52). -/
def opcodeTable : List (Byte × (Byte → Instr)) :=
  [ (Opcode.nop, .nop), (Opcode.load, .load), (Opcode.store, .store), (Opcode.add, .add),
    (Opcode.sub, .sub), (Opcode.cmp, .cmp), (Opcode.inc, .inc), (Opcode.dec, .dec),
    (Opcode.jmp, .jmp), (Opcode.jz, .jz), (Opcode.jnz, .jnz), (Opcode.call, .call),
    (Opcode.ret, .ret), (Opcode.out, .out), (Opcode.push, .push), (Opcode.pop, .pop),
    (Opcode.halt, .halt) ]

/-- The row that an opcode byte selects; a byte in no row selects the invalid row (R54, R56). -/
def decodePair (opcode operand : Byte) : Instr :=
  match opcodeTable.lookup opcode with
  | some row => row operand
  | none => .invalid opcode operand

/-- The decoder, on any bytes: the opcode byte at the lower address, then the operand byte (R34, R51);
the bytes after them are handed back. -/
def decode : List Byte → Except DecodeError (Instr × List Byte)
  | opcode :: operand :: rest => .ok (decodePair opcode operand, rest)
  | [_] => .error .truncated
  | [] => .error .truncated

/-- The encoder: the two bytes of an instruction, the opcode at the lower address (R51, R55). -/
def encode : Instr → List Byte
  | .nop x => [Opcode.nop, x]
  | .load x => [Opcode.load, x]
  | .store x => [Opcode.store, x]
  | .add x => [Opcode.add, x]
  | .sub x => [Opcode.sub, x]
  | .cmp x => [Opcode.cmp, x]
  | .inc x => [Opcode.inc, x]
  | .dec x => [Opcode.dec, x]
  | .jmp x => [Opcode.jmp, x]
  | .jz x => [Opcode.jz, x]
  | .jnz x => [Opcode.jnz, x]
  | .call x => [Opcode.call, x]
  | .ret x => [Opcode.ret, x]
  | .out x => [Opcode.out, x]
  | .push x => [Opcode.push, x]
  | .pop x => [Opcode.pop, x]
  | .halt x => [Opcode.halt, x]
  | .invalid opcode x => [opcode, x]

/-- The high byte of the 16-bit notation `iw = {opcode, operand}` (R51), of `w`'s low `nbits` bits. -/
def tableWordOpcode (nbits w : Nat) : Byte := BitVec.ofNat 8 (w % 2 ^ nbits / 256)

/-- The low byte of the 16-bit notation `iw = {opcode, operand}` (R51), of `w`'s low `nbits` bits. -/
def tableWordOperand (nbits w : Nat) : Byte := BitVec.ofNat 8 (w % 2 ^ nbits)

/-- The bytes of the table's word as memory holds them: `iw[15:8]` is the opcode, at the lower
address, and `iw[7:0]` the operand (R51, D17; log entry 1). -/
def tableWordBytes (nbits w : Nat) : List Byte := [tableWordOpcode nbits w, tableWordOperand nbits w]

/-- What the decoder reads from an instruction whose bits are `w` as spec/opcode_table.json numbers them. -/
def decodeTableWord (nbits w : Nat) : Option Instr :=
  match decode (tableWordBytes nbits w) with
  | .ok (i, _) => some i
  | .error _ => none

end Sys2Proof
end

