-- ==== Sys2Proof/Machine/State.lean ====
section
/-! DEFINITION. The machine's state as plain data, and the state after reset
(spec/10_state.md R10 to R25). -/

namespace Sys2Proof.Machine

/-- Memory: (address, byte) pairs in one canonical form (`Memory.wf`): addresses strictly rising and
below 256, and no entry equal to what an unlisted address reads as. -/
abbrev Memory := List Host.Cell

/-- The canonical form, entry by entry: every address is at least `low` and below 256, the next one is
higher, and no entry holds the byte an unlisted address reads as. -/
def Memory.wfFrom (low : Nat) : Memory → Bool
  | [] => true
  | (k, v) :: rest =>
    decide (low ≤ k) && decide (k < Config.memSize) && (v != Config.unlistedByte) && wfFrom (k + 1) rest

/-- The canonical form of a memory. -/
def Memory.wf (m : Memory) : Bool := m.wfFrom 0

/-- The diagnostic events (R22, D13, D14). They are outputs: no rule reads one. -/
inductive Event where
  /-- OUT's side channel: the address and the byte read there (R111). -/
  | out (addr : Addr) (value : Byte)
  /-- A STORE to the video-mapped region outside vblank (R126). -/
  | vramWriteDenied (addr : Addr)
  /-- The invalid-opcode halt: the offending opcode and its address (R116). -/
  | illegalOpcode (opcode : Byte) (addr : Addr)
  deriving DecidableEq, Repr

/-- The complete state of the core: the eight items of R10 and nothing else. -/
structure Cpu where
  /-- `M[0x00..0xFF]`, R19. -/
  mem : Memory
  /-- `A`, the accumulator, R11. -/
  a : Byte
  /-- `Z`, the zero flag, R12. -/
  z : Bool
  /-- `PC`, R14. -/
  pc : Addr
  /-- `SP`, R15. -/
  sp : Addr
  /-- `RUN`, R16. -/
  run : Bool
  /-- `CC`, R17: an unbounded natural number (D5; log entry 11). -/
  cc : Nat
  /-- `VB`, R18. -/
  vb : Bool
  deriving DecidableEq, Repr

/-- The core's state and, beside it, its one output: the diagnostic event stream, oldest first (R22).
The stream is no core state (R20); it stands here because a step answers with a state only
(DESIGN CHOICE; log entry 2). -/
structure State where
  cpu : Cpu
  events : List Event
  deriving DecidableEq, Repr

/-- No step faults (R72, R75): the one exception, the invalid-opcode halt, is a next state (R116).
So there is no fault to name (log entry 20). -/
inductive Fault where
  deriving DecidableEq, Repr

/-- Why an instruction has no meaning. -/
inductive Refusal where
  /-- The instruction with this mnemonic has no meaning yet. Raised by no arm of this model: every
  row of the opcode table has its meaning. Safe. -/
  | notModelled (mnemonic : String)
  deriving DecidableEq, Repr

/-! Writing one item and leaving the others. -/

def State.withMem (s : State) (m : Memory) : State := { s with cpu := { s.cpu with mem := m } }
def State.withA (s : State) (v : Byte) : State := { s with cpu := { s.cpu with a := v } }
def State.withZ (s : State) (b : Bool) : State := { s with cpu := { s.cpu with z := b } }
def State.withPc (s : State) (v : Addr) : State := { s with cpu := { s.cpu with pc := v } }
def State.withSp (s : State) (v : Addr) : State := { s with cpu := { s.cpu with sp := v } }
def State.withRun (s : State) (b : Bool) : State := { s with cpu := { s.cpu with run := b } }
def State.withCc (s : State) (n : Nat) : State := { s with cpu := { s.cpu with cc := n } }
def State.withVb (s : State) (b : Bool) : State := { s with cpu := { s.cpu with vb := b } }
def State.withEvents (s : State) (es : List Event) : State := { s with events := es }

/-- `Reset(RESET_MEM, ENTRY, RESET_A, RESET_Z)` (R25, R170): the four parameters the spec leaves open
are arguments; the stream is empty. -/
def State.resetWith (resetMem : Memory) (entry : Addr) (resetA : Byte) (resetZ : Bool) : State where
  cpu :=
    { mem := resetMem, a := resetA, z := resetZ, pc := entry, sp := Config.spReset,
      run := Config.resetRun, cc := Config.resetCc, vb := Config.resetVb }
  events := []

/-- The machine right after reset, with the values that log entries 3 and 4 name for the open
parameters and no byte of memory staged. -/
def State.reset : State := State.resetWith [] Config.entry Config.resetA Config.resetZ

end Sys2Proof.Machine
end

