-- ==== Sys2Proof/Machine/Flags.lean ====
section
/-! DEFINITION. Every flag computation: the zero flag (spec/10_state.md R12, R13) and the vblank flag
(spec/46_vblank_and_gate.md R121). -/

namespace Sys2Proof.Machine

/-- `Z <- (A = 0)` for the new accumulator value (R13). -/
def zeroFlag (v : Byte) : Bool := v == 0

/-- CMP's `Z <- (A = M[operand])` (R87). -/
def compareFlag (a m : Byte) : Bool := a == m

/-- LOAD's zero flag under the switch `LOAD_UPDATES_Z` (R80, D1): recomputed, or left as it was. -/
def loadFlag (updatesZ old : Bool) (v : Byte) : Bool := if updatesZ then zeroFlag v else old

/-- `VB <- ((CC mod 64) < 8)` (R121). -/
def vblankFlag (cc : Nat) : Bool := decide (cc % Config.vblankPeriod < Config.vblankLen)

end Sys2Proof.Machine
end

