-- ==== Sys2Proof/Machine/Operands.lean ====
section
/-! DEFINITION. The operand forms: the two ways of forming a data address (spec/41_load_store.md R82),
the addresses of an instruction's two bytes (spec/40_step_cycle.md R66) and the address of the next
instruction (R69, R98). -/

namespace Sys2Proof.Machine

/-- Direct: the effective address is the operand byte itself (R53, R82). -/
def directAddr (operand : Byte) : Addr := operand

/-- Stack, push-like write: `SP` before the decrement (R15, R82). -/
def pushAddr (s : State) : Addr := s.cpu.sp

/-- Stack, pop-like read: `(SP + 1) mod 256`, which is `SP` after the increment (R15, R82). -/
def popAddr (s : State) : Addr := s.cpu.sp + 1

/-- `SP` after a push-like write (R15). -/
def spAfterPush (s : State) : Addr := s.cpu.sp - 1

/-- Where the opcode byte is fetched (R66). -/
def opcodeAddr (s : State) : Addr := s.cpu.pc

/-- Where the operand byte is fetched (R66). -/
def operandAddr (s : State) : Addr := s.cpu.pc + 1

/-- `(PC + 2) mod 256` (R69; the value CALL pushes, R98). -/
def nextPc (s : State) : Addr := s.cpu.pc + Config.insnLen

/-- The address lies in the video-mapped region, 0xE0 to 0xFF inclusive (R129). -/
def isVram (a : Addr) : Bool := Config.vramBase.ule a && a.ule Config.vramLast

end Sys2Proof.Machine
end

