-- ==== Sys2Proof/Machine/Ops.lean ====
section
/-! DEFINITION. The named operations over memory and registers: the primitives of spec/00_scope.md R8,
the common epilogue (R69), the framebuffer gate (R126), the push and pop forms (R15, R107), the one
exception (R116, R144), and fetch (R66). -/

namespace Sys2Proof.Machine

/-- The byte at an address; an unlisted address reads as `Config.unlistedByte` (R36; log entry 3). -/
def Memory.read : Memory → Addr → Byte
  | [], _ => Config.unlistedByte
  | (k, v) :: rest, addr => if k = addr.toNat then v else read rest addr

/-- The memory without its entry for an address. -/
def Memory.erase (m : Memory) (addr : Addr) : Memory := m.filter fun c => c.1 != addr.toNat

/-- The memory with an entry put before the first higher address. -/
def Memory.insert (addr : Addr) (v : Byte) : Memory → Memory
  | [] => [(addr.toNat, v)]
  | c :: rest => if addr.toNat < c.1 then (addr.toNat, v) :: c :: rest else c :: Memory.insert addr v rest

/-- The memory with one byte written, in canonical form (R37: a write replaces the whole byte). -/
def Memory.write (m : Memory) (addr : Addr) (v : Byte) : Memory :=
  if v = Config.unlistedByte then m.erase addr else Memory.insert addr v (m.erase addr)

/-- `MemRead(addr, 1)` (R8, R36): never gated, no side effect. -/
def readByte (s : State) (addr : Addr) : Byte := Memory.read s.cpu.mem addr

/-- `MemWrite(addr, 1, v)` (R8, R37): unconditional. -/
def memWrite (addr : Addr) (v : Byte) (s : State) : State := s.withMem (Memory.write s.cpu.mem addr v)

/-- `emit E(...)` (R8, R22): append to the diagnostic stream. -/
def emit (e : Event) (s : State) : State := s.withEvents (s.events ++ [e])

/-- `SetA(v)`, the flag-updating setter (R13). -/
def setA (v : Byte) (s : State) : State := (s.withA v).withZ (zeroFlag v)

/-- LOAD's assignment of the accumulator under the switch `LOAD_UPDATES_Z` (R80, D1). -/
def loadA (updatesZ : Bool) (v : Byte) (s : State) : State :=
  (s.withA v).withZ (loadFlag updatesZ s.cpu.z v)

/-- The timing state machine's advance (R120, R121): `CC <- CC + 1`, then `VB` from the new `CC`. -/
def tick (s : State) : State := (s.withCc (s.cpu.cc + 1)).withVb (vblankFlag (s.cpu.cc + 1))

/-- `Epilogue()` (R69): the timing advance, then `PC <- (PC + 2) mod 256` from the current `PC`. -/
def epilogue (s : State) : State := (tick s).withPc (nextPc (tick s))

/-- `PC <- target`, the epilogue skipped (R8, R95). -/
def jumpTo (target : Addr) (s : State) : State := s.withPc target

/-- `StoreGated(addr, v)` (R126): denied, with a diagnostic, in 0xE0 to 0xFF while `VB` is false. -/
def storeGated (addr : Addr) (v : Byte) (s : State) : State :=
  if isVram addr && !s.cpu.vb then emit (.vramWriteDenied addr) s else memWrite addr v s

/-- The memory write of CALL and PUSH under the switch `GATE_STACK_WRITES` (R127, D2). -/
def stackWrite (gated : Bool) (addr : Addr) (v : Byte) (s : State) : State :=
  if gated then storeGated addr v s else memWrite addr v s

/-- The push form of CALL and PUSH (R15, R107): write at `SP`, then `SP <- (SP - 1) mod 256`. -/
def pushByte (gated : Bool) (v : Byte) (s : State) : State :=
  (stackWrite gated (pushAddr s) v s).withSp (spAfterPush s)

/-- The pop form of RET and POP, first half (R15, R107): `SP <- (SP + 1) mod 256`. -/
def popSp (s : State) : State := s.withSp (popAddr s)

/-- The pop form, second half: the byte at `SP` after the increment (R15, R107). -/
def popped (s : State) : Byte := readByte s (popAddr s)

/-- `RUN <- false` (R16). -/
def stopRun (s : State) : State := s.withRun false

/-- `raise IllegalOpcode(opcode, addr)`, taking the machine's only exception (R116, R141, R144): `RUN` is
cleared and the event emitted; nothing is saved, no mode changes and `PC` keeps the opcode's address.
There is no return from it (R145). -/
def raiseIllegalOpcode (opcode : Byte) (addr : Addr) (s : State) : State :=
  emit (.illegalOpcode opcode addr) (stopRun s)

/-- Fetch (R66): the two bytes at `PC` and `(PC + 1) mod 256`. -/
def fetchBytes (s : State) : List Byte := [readByte s (opcodeAddr s), readByte s (operandAddr s)]

/-- Fetch and decode: the instruction of the two bytes at `PC` (R66, R67). -/
def fetchInstr (s : State) : Instr := decodePair (readByte s (opcodeAddr s)) (readByte s (operandAddr s))

/-- A step requested while halted changes nothing and emits nothing (R65, D11; log entry 10). -/
def haltedStep (s : State) : State := s

/-- The state with two bytes stored where the next fetch reads, and `RUN` true, which the fetch needs
(R65, R66; log entry 17). -/
def placeAtFetch (opcode operand : Byte) (s : State) : State :=
  (memWrite (operandAddr s) operand (memWrite (opcodeAddr s) opcode s)).withRun true

end Sys2Proof.Machine
end

