-- ==== Sys2Proof/Machine/Arithmetic.lean ====
section
/-! DEFINITION. ADD, SUB, CMP, INC, DEC (spec/42_arithmetic.md): 8-bit arithmetic modulo 256 (R90). -/

namespace Sys2Proof.Machine

/-- ADD, R85. -/
def execAdd (operand : Addr) (s : State) : Host.Outcome State Fault Refusal :=
  .next (epilogue (setA (s.cpu.a + readByte s (directAddr operand)) s))

/-- SUB, R86. -/
def execSub (operand : Addr) (s : State) : Host.Outcome State Fault Refusal :=
  .next (epilogue (setA (s.cpu.a - readByte s (directAddr operand)) s))

/-- CMP, R87: writes only the zero flag. -/
def execCmp (operand : Addr) (s : State) : Host.Outcome State Fault Refusal :=
  .next (epilogue (s.withZ (compareFlag s.cpu.a (readByte s (directAddr operand)))))

/-- INC, R88. -/
def execInc (s : State) : Host.Outcome State Fault Refusal :=
  .next (epilogue (setA (s.cpu.a + 1) s))

/-- DEC, R89. -/
def execDec (s : State) : Host.Outcome State Fault Refusal :=
  .next (epilogue (setA (s.cpu.a - 1) s))

end Sys2Proof.Machine
end

