-- ==== Sys2Proof/Machine/Control.lean ====
section
/-! DEFINITION. JMP, JZ, JNZ, CALL, RET (spec/43_control_transfer.md). -/

namespace Sys2Proof.Machine

/-- JMP, R95: skips the epilogue. -/
def execJmp (target : Addr) (s : State) : Host.Outcome State Fault Refusal :=
  .next (jumpTo target s)

/-- JZ, R96: taken skips the epilogue, not taken falls through. -/
def execJz (target : Addr) (s : State) : Host.Outcome State Fault Refusal :=
  .next (if s.cpu.z then jumpTo target s else epilogue s)

/-- JNZ, R97: taken skips the epilogue, not taken falls through. -/
def execJnz (target : Addr) (s : State) : Host.Outcome State Fault Refusal :=
  .next (if s.cpu.z then epilogue s else jumpTo target s)

/-- CALL, R98: push `(PC + 2) mod 256`, then jump; skips the epilogue. -/
def execCall (target : Addr) (s : State) : Host.Outcome State Fault Refusal :=
  .next (jumpTo target (pushByte Config.gateStackWrites (nextPc s) s))

/-- RET, R99: pop into `PC`, then fall through the epilogue, which adds 2 to it (conflict C2). -/
def execRet (s : State) : Host.Outcome State Fault Refusal :=
  .next (epilogue ((popSp s).withPc (popped s)))

end Sys2Proof.Machine
end

