-- ==== Sys2Proof/Machine/LoadStore.lean ====
section
/-! DEFINITION. LOAD and STORE (spec/41_load_store.md). -/

namespace Sys2Proof.Machine

/-- LOAD, R80. -/
def execLoad (operand : Addr) (s : State) : Host.Outcome State Fault Refusal :=
  .next (epilogue (loadA Config.loadUpdatesZ (readByte s (directAddr operand)) s))

/-- STORE, R81: the gate reads `VB` before this instruction's own epilogue (R71, D23; log entry 9). -/
def execStore (operand : Addr) (s : State) : Host.Outcome State Fault Refusal :=
  .next (epilogue (storeGated (directAddr operand) s.cpu.a s))

end Sys2Proof.Machine
end

