-- ==== Sys2Proof/Machine/Stack.lean ====
section
/-! DEFINITION. PUSH and POP (spec/44_stack.md). -/

namespace Sys2Proof.Machine

/-- PUSH, R105: write at `SP`, then decrement (conflict C3). -/
def execPush (s : State) : Host.Outcome State Fault Refusal :=
  .next (epilogue (pushByte Config.gateStackWrites s.cpu.a s))

/-- POP, R106: increment `SP`, then load from it. -/
def execPop (s : State) : Host.Outcome State Fault Refusal :=
  .next (epilogue (setA (popped s) (popSp s)))

end Sys2Proof.Machine
end

