-- ==== Sys2Proof/Machine/System.lean ====
section
/-! DEFINITION. NOP, OUT, HALT and the invalid opcode (spec/45_system.md). -/

namespace Sys2Proof.Machine

/-- NOP, R110. -/
def execNop (s : State) : Host.Outcome State Fault Refusal :=
  .next (epilogue s)

/-- OUT, R111: report the byte at the operand address (D14; log entry 13). -/
def execOut (operand : Addr) (s : State) : Host.Outcome State Fault Refusal :=
  .next (epilogue (emit (.out operand (readByte s (directAddr operand))) s))

/-- HALT, R112: only `RUN` changes (D12; log entry 8). -/
def execHalt (s : State) : Host.Outcome State Fault Refusal :=
  .next (stopRun s)

/-- The invalid opcode, R116: it takes the machine's one exception. -/
def execInvalid (opcode : Byte) (s : State) : Host.Outcome State Fault Refusal :=
  .next (raiseIllegalOpcode opcode (opcodeAddr s) s)

end Sys2Proof.Machine
end

