-- ==== Sys2Proof/Machine/Dispatch.lean ====
section
/-! DEFINITION. One arm per instruction (spec/30_encoding.md R54, R55; spec/40_step_cycle.md R67). -/

namespace Sys2Proof.Machine

/-- The meaning of an instruction. -/
def exec (i : Instr) (s : State) : Host.Outcome State Fault Refusal :=
  match i with
  | .nop _ => Sys2Proof.Machine.execNop s
  | .load operand => Sys2Proof.Machine.execLoad operand s
  | .store operand => Sys2Proof.Machine.execStore operand s
  | .add operand => Sys2Proof.Machine.execAdd operand s
  | .sub operand => Sys2Proof.Machine.execSub operand s
  | .cmp operand => Sys2Proof.Machine.execCmp operand s
  | .inc _ => Sys2Proof.Machine.execInc s
  | .dec _ => Sys2Proof.Machine.execDec s
  | .jmp target => Sys2Proof.Machine.execJmp target s
  | .jz target => Sys2Proof.Machine.execJz target s
  | .jnz target => Sys2Proof.Machine.execJnz target s
  | .call target => Sys2Proof.Machine.execCall target s
  | .ret _ => Sys2Proof.Machine.execRet s
  | .out operand => Sys2Proof.Machine.execOut operand s
  | .push _ => Sys2Proof.Machine.execPush s
  | .pop _ => Sys2Proof.Machine.execPop s
  | .halt _ => Sys2Proof.Machine.execHalt s
  | .invalid opcode _ => Sys2Proof.Machine.execInvalid opcode s

end Sys2Proof.Machine
end

