-- ==== Sys2Proof/Machine/Step.lean ====
section
/-! DEFINITION. One step (spec/40_step_cycle.md R65, R66, R70). -/

namespace Sys2Proof.Machine

/-- `Step()` (R70): fetch and execute one instruction; while halted, nothing. -/
def step (s : State) : Host.Outcome State Fault Refusal :=
  if s.cpu.run then exec (fetchInstr s) s else .next (haltedStep s)

/-- `s` with the table's word `w` stored where `step` fetches its next instruction (log entries 1, 17). -/
def State.withFetchWord (s : State) (nbits w : Nat) : State :=
  placeAtFetch (tableWordOpcode nbits w) (tableWordOperand nbits w) s

end Sys2Proof.Machine
end

