-- ==== Sys2Proof/Machine/Container.lean ====
section
/-! DEFINITION. The program container and the loader (spec/70_reset_and_hazards.md R174, R176 to R178):
host side, the way `RESET_MEM` and `ENTRY` are produced (log entry 15). -/

namespace Sys2Proof.Machine

/-- A container's header fields and its program bytes (R176). -/
structure Container where
  version : Byte
  loadAddr : Addr
  entry : Addr
  pad : Byte
  image : List Byte
  deriving DecidableEq, Repr

/-- Why a file is not loaded. Each is the host's, none is a fault of the core; safe (R177, R178). -/
inductive LoadError where
  /-- The first three bytes are not the magic (R177). -/
  | badMagic
  /-- Shorter than the 8-byte header (R178). -/
  | shortHeader
  /-- Shorter than 8 + N bytes (R178). -/
  | shortImage
  /-- The load address plus N passes 0x100 (R178, D21). -/
  | imagePastTop
  deriving DecidableEq, Repr

/-- What the loader reports. -/
inductive LoadResult where
  /-- Loaded; `warned` when the padding byte is not 0x00 (R176). -/
  | loaded (warned : Bool)
  /-- Rejected (R177, R178). -/
  | rejected (why : LoadError)
  deriving DecidableEq, Repr

/-- Read a container file (R176 to R178): the magic first; the version byte is not checked (D21);
bytes after the image are ignored. -/
def parseContainer (file : List Byte) : Except LoadError Container :=
  if file.take 3 ≠ Config.magic then .error .badMagic
  else
    match file.drop 3 with
    | version :: loadAddr :: entry :: size :: pad :: rest =>
      if rest.length < size.toNat then .error .shortImage
      else if Config.memSize < loadAddr.toNat + size.toNat then .error .imagePastTop
      else .ok ⟨version, loadAddr, entry, pad, rest.take size.toNat⟩
    | _ => .error .shortHeader

/-- Copy program bytes into memory from an address on, plain writes, no collision check (R33, R176). -/
def copyImage (addr : Addr) : List Byte → Memory → Memory
  | [], m => m
  | b :: rest, m => copyImage (addr + 1) rest (Memory.write m addr b)

/-- The loader (R176, R177): on success the image is copied and `PC` set to the entry point; a
rejected file changes nothing. The spec requires a reset before it (R173, D28). -/
def loadFile (file : List Byte) (s : State) : State × LoadResult :=
  match parseContainer file with
  | .ok c => ((s.withMem (copyImage c.loadAddr c.image s.cpu.mem)).withPc c.entry, .loaded (decide (c.pad ≠ 0)))
  | .error e => (s, .rejected e)

/-- Reset, then load (R174): the order of events before the first instruction. -/
def boot (resetMem : Memory) (resetA : Byte) (resetZ : Bool) (file : List Byte) : State × LoadResult :=
  loadFile file (State.resetWith resetMem Config.entry resetA resetZ)

end Sys2Proof.Machine
end

