-- ==== Sys2Proof/Machine/Framebuffer.lean ====
section
/-! DEFINITION. The framebuffer view of 0xE0 to 0xFF (spec/20_memory.md R46, D20; log entry 16): a live
alias of the memory bytes, read by the display side only (R156). -/

namespace Sys2Proof.Machine

/-- `index = y*16 + x`, 16 being `FB_WIDTH` (R46). -/
def pixelIndex (x : Fin Config.fbWidth) (y : Fin Config.fbHeight) : Nat := y.val * Config.fbWidth + x.val

/-- The address of the pixel's byte, `0xE0 + (index >> 3)` (R46). -/
def pixelAddr (x : Fin Config.fbWidth) (y : Fin Config.fbHeight) : Addr :=
  Config.vramBase + BitVec.ofNat 8 (pixelIndex x y >>> 3)

/-- The pixel's bit in its byte, `index & 7`, counted from the least significant bit (R46, D20). -/
def pixelBit (x : Fin Config.fbWidth) (y : Fin Config.fbHeight) : Nat := pixelIndex x y &&& 7

/-- The pixel at `(x, y)`: true is filled (R46). -/
def pixel (m : Memory) (x : Fin Config.fbWidth) (y : Fin Config.fbHeight) : Bool :=
  (Memory.read m (pixelAddr x y)).getLsbD (pixelBit x y)

/-- All the pixels, row by row, as the renderer reads them (R46, R156). -/
def frame (m : Memory) : List (List Bool) :=
  (List.finRange Config.fbHeight).map fun y => (List.finRange Config.fbWidth).map fun x => pixel m x y

end Sys2Proof.Machine
end

