-- ==== Sys2Proof/Machine/HostAccess.lean ====
section
/-! DEFINITION. What the host may write between steps (spec/60_exceptions.md R154, R155; D22). These
operations are the host's, not a step's: no step calls one (R157; log entry 14). -/

namespace Sys2Proof.Machine

/-- The writes the host may make. There is none of `Z` alone, `RUN`, `CC` or `VB` (R155). -/
inductive HostWrite where
  /-- One byte of memory, plain, not gated (R47, R127). -/
  | mem (addr : Addr) (value : Byte)
  /-- The accumulator, through `SetA`, so `Z` follows. -/
  | acc (value : Byte)
  /-- `PC`, raw. -/
  | pc (value : Addr)
  /-- `SP`, raw. -/
  | sp (value : Addr)
  deriving DecidableEq, Repr

/-- The write's effect (R154). -/
def applyHostWrite (w : HostWrite) (s : State) : State :=
  match w with
  | .mem addr v => memWrite addr v s
  | .acc v => setA v s
  | .pc v => s.withPc v
  | .sp v => s.withSp v

/-- A host write between steps: not permitted once `RUN` is false, when the state is immutable (R155). -/
def hostWrite (w : HostWrite) (s : State) : Option State :=
  if s.cpu.run then some (applyHostWrite w s) else none

end Sys2Proof.Machine
end

