-- ==== Sys2Proof/Machine/Listing.lean ====
section
/-! DEFINITION. Assembler text and the disassembler's view (spec/30_encoding.md R59, R61; log entry 21):
host side, from the executor's own opcode table. -/

namespace Sys2Proof.Machine

/-- One upper-case hexadecimal digit. -/
def hexDigit (n : Nat) : Char := if n < 10 then Char.ofNat (48 + n) else Char.ofNat (55 + n)

/-- A byte as the source's scenarios write it, with the 0x and two digits (R7, R59). -/
def hexByte (b : Byte) : List Char := ['0', 'x', hexDigit (b.toNat / 16), hexDigit (b.toNat % 16)]

/-- A mnemonic with one operand. -/
def withOperand (mnemonic : List Char) (b : Byte) : List Char := mnemonic ++ ' ' :: hexByte b

/-- An instruction in assembler text: the mnemonic in capitals, then the operand byte where it is used
(R59, D16); an invalid opcode, which has no mnemonic, as a data byte pair in R60's notation. -/
def asmText : Instr → List Char
  | .nop _ => ['N', 'O', 'P']
  | .load x => withOperand ['L', 'O', 'A', 'D'] x
  | .store x => withOperand ['S', 'T', 'O', 'R', 'E'] x
  | .add x => withOperand ['A', 'D', 'D'] x
  | .sub x => withOperand ['S', 'U', 'B'] x
  | .cmp x => withOperand ['C', 'M', 'P'] x
  | .inc _ => ['I', 'N', 'C']
  | .dec _ => ['D', 'E', 'C']
  | .jmp x => withOperand ['J', 'M', 'P'] x
  | .jz x => withOperand ['J', 'Z'] x
  | .jnz x => withOperand ['J', 'N', 'Z'] x
  | .call x => withOperand ['C', 'A', 'L', 'L'] x
  | .ret _ => ['R', 'E', 'T']
  | .out x => withOperand ['O', 'U', 'T'] x
  | .push _ => ['P', 'U', 'S', 'H']
  | .pop _ => ['P', 'O', 'P']
  | .halt _ => ['H', 'A', 'L', 'T']
  | .invalid op x => withOperand (withOperand ['.', 'b', 'y', 't', 'e'] op) x

/-- The disassembler's view (R61): `n` lines in two-byte strides from an address, each the address and
the instruction the executor's own table decodes there. -/
def disassemble (m : Memory) (addr : Addr) : Nat → List (Addr × Instr)
  | 0 => []
  | n + 1 =>
    (addr, decodePair (Memory.read m addr) (Memory.read m (addr + 1))) ::
      disassemble m (addr + Config.insnLen) n

end Sys2Proof.Machine
end

