-- ==== Sys2Proof/Safety.lean ====
section
/-! DEFINITION. The terms claims use: the invariant of spec/10_state.md R21, how a run ended
(spec/40_step_cycle.md R73, R75), and the relations between the state before and after. -/

namespace Sys2Proof.Machine

/-- The event is the invalid-opcode diagnostic. -/
def Event.isIllegal : Event → Bool
  | .illegalOpcode _ _ => true
  | .out _ _ => false
  | .vramWriteDenied _ => false

/-- The stream holds an `IllegalOpcode` event at most as its last one, and none while the machine runs
(R73: it "ends with" that event after an invalid-opcode halt and "has no such event after a clean HALT"). -/
def State.streamOk (s : State) : Bool :=
  s.events.dropLast.all (fun e => !e.isIllegal) && (!s.cpu.run || s.events.all (fun e => !e.isIllegal))

/-- The invariant: memory in its canonical form, every address below 256 (R21 (a)), `VB = ((CC mod 64) < 8)`
(R21 (b)), and the stream's form (R73). -/
def State.Inv (s : State) : Prop :=
  s.cpu.mem.wf = true ∧ s.cpu.vb = decide (s.cpu.cc % 64 < 8) ∧ s.streamOk = true

/-- How a run ended: read from the last event of the stream, not from the CPU state (R73, D29). -/
inductive HaltCause where
  /-- Opcode 0xFF. -/
  | clean
  /-- An invalid opcode and its address. -/
  | illegal (opcode : Byte) (addr : Addr)
  deriving DecidableEq, Repr

/-- The cause of the end of a run; none while it runs (R73, R75). -/
def State.haltCause (s : State) : Option HaltCause :=
  if s.cpu.run then none
  else
    match s.events.getLast? with
    | some (.illegalOpcode opcode addr) => some (.illegal opcode addr)
    | _ => some .clean

/-- Every byte of memory reads as before. -/
def SameMem (s t : State) : Prop := ∀ b : Addr, readByte t b = readByte s b

/-- Every byte of memory but the one at `addr` reads as before. -/
def SameMemBut (addr : Addr) (s t : State) : Prop := ∀ b : Addr, b ≠ addr → readByte t b = readByte s b

/-- The epilogue ran, from a program counter `pc` (R69): `CC` is one more, `VB` follows the new `CC`, and `PC`
is two past `pc`, modulo 256. -/
def Counted (pc : Addr) (s t : State) : Prop :=
  t.cpu.cc = s.cpu.cc + 1 ∧ t.cpu.vb = decide ((s.cpu.cc + 1) % 64 < 8) ∧
    t.cpu.pc.toNat = (pc.toNat + 2) % 256

/-- The epilogue was skipped and `PC` is `target` (R68). -/
def NotCounted (target : Addr) (s t : State) : Prop :=
  t.cpu.cc = s.cpu.cc ∧ t.cpu.vb = s.cpu.vb ∧ t.cpu.pc = target

end Sys2Proof.Machine
end

