-- ==== Sys2Proof/Reference.lean ====
section
/-! DEFINITION. The pseudocode of spec/40_step_cycle.md R70 written out a second time, over unbounded
natural numbers with the `mod 256` of spec/00_scope.md R7 and R8 and memory as a function, for the
refinement claim: it shares no operation, no decoder and no flag computation with the machine. -/

namespace Sys2Proof.Reference

/-- The eight items of R10, as numbers, and the stream of R22. -/
structure Abs where
  M : Nat → Nat
  A : Nat
  Z : Bool
  PC : Nat
  SP : Nat
  RUN : Bool
  CC : Nat
  VB : Bool
  stream : List Machine.Event

/-- `SetA(v)` (R8, R13). -/
def Abs.setA (q : Abs) (v : Nat) : Abs := { q with A := v % 256, Z := decide (v % 256 = 0) }

/-- `MemWrite(addr, 1, v)` (R8). -/
def Abs.memWrite (q : Abs) (addr v : Nat) : Abs :=
  { q with M := fun b => if b = addr % 256 then v % 256 else q.M b }

/-- `StoreGated(addr, v)` (R126). -/
def Abs.storeGated (q : Abs) (addr v : Nat) : Abs :=
  if 0xE0 ≤ addr ∧ addr ≤ 0xFF ∧ q.VB = false then
    { q with stream := q.stream ++ [Machine.Event.vramWriteDenied (BitVec.ofNat 8 addr)] }
  else q.memWrite addr v

/-- `Epilogue()` (R69). -/
def Abs.epilogue (q : Abs) : Abs :=
  { q with CC := q.CC + 1, VB := decide ((q.CC + 1) % 64 < 8), PC := (q.PC + 2) % 256 }

/-- The case of R70 that an opcode selects. -/
def Abs.case (q : Abs) (opcode operand : Nat) : Abs :=
  match opcode with
  | 0x00 => q.epilogue
  | 0x01 => (q.setA (q.M operand)).epilogue
  | 0x02 => (q.storeGated operand q.A).epilogue
  | 0x03 => (q.setA ((q.A + q.M operand) % 256)).epilogue
  | 0x04 => (q.setA ((q.A + 256 - q.M operand) % 256)).epilogue
  | 0x05 => { q with Z := decide (q.A = q.M operand) }.epilogue
  | 0x06 => (q.setA ((q.A + 1) % 256)).epilogue
  | 0x07 => (q.setA ((q.A + 255) % 256)).epilogue
  | 0x08 => { q with PC := operand }
  | 0x09 => if q.Z = true then { q with PC := operand } else q.epilogue
  | 0x0A => if q.Z = false then { q with PC := operand } else q.epilogue
  | 0x0B => { q.memWrite q.SP ((q.PC + 2) % 256) with SP := (q.SP + 255) % 256, PC := operand }
  | 0x0C => { q with SP := (q.SP + 1) % 256, PC := q.M ((q.SP + 1) % 256) }.epilogue
  | 0x0D =>
    { q with stream := q.stream ++ [Machine.Event.out (BitVec.ofNat 8 operand) (BitVec.ofNat 8 (q.M operand))] }.epilogue
  | 0x0E => { q.memWrite q.SP q.A with SP := (q.SP + 255) % 256 }.epilogue
  | 0x0F => ({ q with SP := (q.SP + 1) % 256 }.setA (q.M ((q.SP + 1) % 256))).epilogue
  | 0xFF => { q with RUN := false }
  | other =>
    { q with
      RUN := false
      stream := q.stream ++ [Machine.Event.illegalOpcode (BitVec.ofNat 8 other) (BitVec.ofNat 8 q.PC)] }

/-- `Step()` (R70). -/
def Abs.step (q : Abs) : Abs :=
  if q.RUN = false then q else q.case (q.M q.PC) (q.M ((q.PC + 1) % 256))

/-- The machine's state seen as R70's: each byte as its number, memory as what each address reads as. -/
def abstractState (s : Machine.State) : Abs where
  M := fun b => if b < 256 then (Machine.readByte s (BitVec.ofNat 8 b)).toNat else 0
  A := s.cpu.a.toNat
  Z := s.cpu.z
  PC := s.cpu.pc.toNat
  SP := s.cpu.sp.toNat
  RUN := s.cpu.run
  CC := s.cpu.cc
  VB := s.cpu.vb
  stream := s.events

end Sys2Proof.Reference
end

