-- ==== Sys2Proof/Certificates/Slice0/Obligations.lean ====
section
/-! DEFINITION. The statements for the provers. Each says its effect in numbers, apart from the model's own
operations, and the frame: every item of R10 and the event stream is named in each instruction's
statement. -/

open Sys2Proof Sys2Proof.Machine

/-! ### Every instruction completes, with this result and this frame -/

/-- R110: NOP runs the epilogue and changes nothing else. -/
def Obligations.NopOnlyRunsTheEpilogue : Prop :=
  ∀ (x : Byte) (s : State), ∃ t, exec (.nop x) s = .next t ∧
    Counted s.cpu.pc s t ∧ t.cpu.a = s.cpu.a ∧ t.cpu.z = s.cpu.z ∧ t.cpu.sp = s.cpu.sp ∧
    t.cpu.run = s.cpu.run ∧ t.events = s.events ∧ SameMem s t

/-- LOAD (41_load_store.md section 1). That LOAD recomputes `Z` is the spec's own choice D1 (log entry 6). -/
def Obligations.LoadCopiesTheByteAndRecomputesZ : Prop :=
  ∀ (x : Addr) (s : State), ∃ t, exec (.load x) s = .next t ∧
    t.cpu.a = readByte s x ∧ t.cpu.z = decide ((readByte s x).toNat = 0) ∧
    Counted s.cpu.pc s t ∧ t.cpu.sp = s.cpu.sp ∧ t.cpu.run = s.cpu.run ∧ t.events = s.events ∧ SameMem s t

/-- R81, R126, R128: STORE writes `A` at the operand address unless that lies in 0xE0 to 0xFF and `VB` is
false; then memory is unchanged and the denial is reported. It falls through either way. That the gate reads `VB`
before this STORE's own epilogue is the spec's own choice D23 (log entry 9), and the denial's payload D13 (log
entry 13). -/
def Obligations.StoreWritesThroughTheFramebufferGate : Prop :=
  ∀ (x : Addr) (s : State), ∃ t, exec (.store x) s = .next t ∧
    directAddr x = x ∧ SameMemBut (directAddr x) s t ∧
    (if 0xE0 ≤ x.toNat ∧ s.cpu.vb = false then
      readByte t (directAddr x) = readByte s (directAddr x) ∧ t.events = s.events ++ [.vramWriteDenied x]
    else readByte t (directAddr x) = s.cpu.a ∧ t.events = s.events) ∧
    Counted s.cpu.pc s t ∧ t.cpu.a = s.cpu.a ∧ t.cpu.z = s.cpu.z ∧ t.cpu.sp = s.cpu.sp ∧
    t.cpu.run = s.cpu.run

/-- R85. -/
def Obligations.AddIsModulo256AndRecomputesZ : Prop :=
  ∀ (x : Addr) (s : State), ∃ t, exec (.add x) s = .next t ∧
    t.cpu.a.toNat = (s.cpu.a.toNat + (readByte s x).toNat) % 256 ∧ t.cpu.z = decide (t.cpu.a.toNat = 0) ∧
    Counted s.cpu.pc s t ∧ t.cpu.sp = s.cpu.sp ∧ t.cpu.run = s.cpu.run ∧ t.events = s.events ∧ SameMem s t

/-- R86: the result is the unique byte that differs from `A - m` by a multiple of 256 (R7). -/
def Obligations.SubIsModulo256AndRecomputesZ : Prop :=
  ∀ (x : Addr) (s : State), ∃ t, exec (.sub x) s = .next t ∧
    (t.cpu.a.toNat : Int) = ((s.cpu.a.toNat : Int) - ((readByte s x).toNat : Int)) % 256 ∧
    t.cpu.z = decide (s.cpu.a = readByte s x) ∧ t.cpu.z = decide (t.cpu.a.toNat = 0) ∧
    Counted s.cpu.pc s t ∧ t.cpu.sp = s.cpu.sp ∧ t.cpu.run = s.cpu.run ∧ t.events = s.events ∧ SameMem s t

/-- R87: CMP writes only `Z`, from equality with the memory byte. -/
def Obligations.CmpWritesOnlyZFromEquality : Prop :=
  ∀ (x : Addr) (s : State), ∃ t, exec (.cmp x) s = .next t ∧
    t.cpu.z = decide (s.cpu.a.toNat = (readByte s x).toNat) ∧ t.cpu.a = s.cpu.a ∧
    Counted s.cpu.pc s t ∧ t.cpu.sp = s.cpu.sp ∧ t.cpu.run = s.cpu.run ∧ t.events = s.events ∧ SameMem s t

/-- R88: `Z` is true exactly when the old `A` was 0xFF. -/
def Obligations.IncIsModulo256AndRecomputesZ : Prop :=
  ∀ (x : Byte) (s : State), ∃ t, exec (.inc x) s = .next t ∧
    t.cpu.a.toNat = (s.cpu.a.toNat + 1) % 256 ∧ t.cpu.z = decide (t.cpu.a.toNat = 0) ∧
    t.cpu.z = decide (s.cpu.a = 0xFF) ∧
    Counted s.cpu.pc s t ∧ t.cpu.sp = s.cpu.sp ∧ t.cpu.run = s.cpu.run ∧ t.events = s.events ∧ SameMem s t

/-- R89: `Z` is true exactly when the old `A` was 0x01. -/
def Obligations.DecIsModulo256AndRecomputesZ : Prop :=
  ∀ (x : Byte) (s : State), ∃ t, exec (.dec x) s = .next t ∧
    (t.cpu.a.toNat : Int) = ((s.cpu.a.toNat : Int) - 1) % 256 ∧ t.cpu.z = decide (t.cpu.a.toNat = 0) ∧
    t.cpu.z = decide (s.cpu.a = 0x01) ∧
    Counted s.cpu.pc s t ∧ t.cpu.sp = s.cpu.sp ∧ t.cpu.run = s.cpu.run ∧ t.events = s.events ∧ SameMem s t

/-- R95: JMP sets `PC` to the operand and skips the epilogue. -/
def Obligations.JmpSetsPcAndSkipsTheEpilogue : Prop :=
  ∀ (x : Addr) (s : State), ∃ t, exec (.jmp x) s = .next t ∧
    NotCounted x s t ∧ t.cpu.a = s.cpu.a ∧ t.cpu.z = s.cpu.z ∧ t.cpu.sp = s.cpu.sp ∧
    t.cpu.run = s.cpu.run ∧ t.events = s.events ∧ SameMem s t

/-- R96: JZ jumps, uncounted, when `Z` is true, and falls through, counted, when it is false. -/
def Obligations.JzJumpsExactlyWhenZIsTrue : Prop :=
  ∀ (x : Addr) (s : State), ∃ t, exec (.jz x) s = .next t ∧
    (s.cpu.z = true → NotCounted x s t) ∧ (s.cpu.z = false → Counted s.cpu.pc s t) ∧
    t.cpu.a = s.cpu.a ∧ t.cpu.z = s.cpu.z ∧ t.cpu.sp = s.cpu.sp ∧
    t.cpu.run = s.cpu.run ∧ t.events = s.events ∧ SameMem s t

/-- R97: JNZ, with the sense reversed. -/
def Obligations.JnzJumpsExactlyWhenZIsFalse : Prop :=
  ∀ (x : Addr) (s : State), ∃ t, exec (.jnz x) s = .next t ∧
    (s.cpu.z = false → NotCounted x s t) ∧ (s.cpu.z = true → Counted s.cpu.pc s t) ∧
    t.cpu.a = s.cpu.a ∧ t.cpu.z = s.cpu.z ∧ t.cpu.sp = s.cpu.sp ∧
    t.cpu.run = s.cpu.run ∧ t.events = s.events ∧ SameMem s t

/-- CALL (43_control_transfer.md section 4): the return address `(PC + 2) mod 256` lands at the old `SP`, then
`SP` is decremented. That the write lands in 0xE0 to 0xFF whatever `VB` is, is the spec's own choice D2
(log entry 7). -/
def Obligations.CallPushesTheReturnAddressAndJumps : Prop :=
  ∀ (x : Addr) (s : State), ∃ t, exec (.call x) s = .next t ∧
    pushAddr s = s.cpu.sp ∧ SameMemBut (pushAddr s) s t ∧
    (readByte t (pushAddr s)).toNat = (s.cpu.pc.toNat + 2) % 256 ∧
    t.cpu.sp.toNat = (s.cpu.sp.toNat + 255) % 256 ∧
    NotCounted x s t ∧ t.cpu.a = s.cpu.a ∧ t.cpu.z = s.cpu.z ∧ t.cpu.run = s.cpu.run ∧ t.events = s.events

/-- R99: RET increments `SP`, takes the byte there as `PC`, and falls through, so control resumes at that
byte plus 2. -/
def Obligations.RetResumesTwoPastThePoppedByte : Prop :=
  ∀ (x : Byte) (s : State), ∃ t, exec (.ret x) s = .next t ∧
    (∃ b : Addr, b.toNat = (s.cpu.sp.toNat + 1) % 256 ∧ t.cpu.sp = b ∧ Counted (readByte s b) s t) ∧
    t.cpu.a = s.cpu.a ∧ t.cpu.z = s.cpu.z ∧ t.cpu.run = s.cpu.run ∧ t.events = s.events ∧ SameMem s t

/-- OUT (45_system.md section 2): reports the operand address and the byte there. The event and its payload are
the spec's own choice D13, D14 (log entry 13). -/
def Obligations.OutReportsTheMemoryByte : Prop :=
  ∀ (x : Addr) (s : State), ∃ t, exec (.out x) s = .next t ∧
    t.events = s.events ++ [.out x (readByte s x)] ∧
    Counted s.cpu.pc s t ∧ t.cpu.a = s.cpu.a ∧ t.cpu.z = s.cpu.z ∧ t.cpu.sp = s.cpu.sp ∧
    t.cpu.run = s.cpu.run ∧ SameMem s t

/-- PUSH (44_stack.md section 1): `A` lands at the old `SP`, then `SP` is decremented. That the write is not
gated is the spec's own choice D2 (log entry 7). -/
def Obligations.PushWritesAThenDecrementsSp : Prop :=
  ∀ (x : Byte) (s : State), ∃ t, exec (.push x) s = .next t ∧
    pushAddr s = s.cpu.sp ∧ SameMemBut (pushAddr s) s t ∧ readByte t (pushAddr s) = s.cpu.a ∧
    t.cpu.sp.toNat = (s.cpu.sp.toNat + 255) % 256 ∧
    Counted s.cpu.pc s t ∧ t.cpu.a = s.cpu.a ∧ t.cpu.z = s.cpu.z ∧ t.cpu.run = s.cpu.run ∧ t.events = s.events

/-- R106: POP increments `SP`, loads `A` from there and recomputes `Z`; the popped cell keeps its value. -/
def Obligations.PopIncrementsSpThenLoadsA : Prop :=
  ∀ (x : Byte) (s : State), ∃ t, exec (.pop x) s = .next t ∧
    (∃ b : Addr, b.toNat = (s.cpu.sp.toNat + 1) % 256 ∧ t.cpu.sp = b ∧ t.cpu.a = readByte s b) ∧
    t.cpu.z = decide (t.cpu.a.toNat = 0) ∧
    Counted s.cpu.pc s t ∧ t.cpu.run = s.cpu.run ∧ t.events = s.events ∧ SameMem s t

/-- HALT (45_system.md section 3): `RUN` becomes false and nothing else changes. That `PC` keeps its value is
the spec's own choice D12 (log entry 8). -/
def Obligations.HaltClearsRunAndNothingElse : Prop :=
  ∀ (x : Byte) (s : State), ∃ t, exec (.halt x) s = .next t ∧
    t.cpu.run = false ∧ NotCounted s.cpu.pc s t ∧ t.cpu.a = s.cpu.a ∧ t.cpu.z = s.cpu.z ∧
    t.cpu.sp = s.cpu.sp ∧ t.events = s.events ∧ SameMem s t

/-- The invalid opcode (45_system.md section 4, 60_exceptions.md sections 1 and 4): its own effect is the
exception, which clears `RUN`, reports the opcode and its address, saves nothing and moves nothing. The
unchanged `PC` and the event's form are the spec's own choices D12, D13, D19 (log entries 8, 13, 22). -/
def Obligations.InvalidOpcodeHaltsAndReports : Prop :=
  ∀ (op x : Byte) (s : State), 0x10 ≤ op.toNat → op.toNat ≤ 0xFE → ∃ t, exec (.invalid op x) s = .next t ∧
    t.cpu.run = false ∧ t.events = s.events ++ [.illegalOpcode op s.cpu.pc] ∧
    NotCounted s.cpu.pc s t ∧ t.cpu.a = s.cpu.a ∧ t.cpu.z = s.cpu.z ∧ t.cpu.sp = s.cpu.sp ∧ SameMem s t

/-- The second byte of NOP, INC, DEC, RET, PUSH, POP, HALT and of an invalid opcode has no effect (30_encoding.md
section 4; the spec's own choice D18, log entry 12). -/
def Obligations.IgnoredSecondByteHasNoEffect : Prop :=
  ∀ (op x y : Byte) (s : State),
    (∃ t, exec (.nop x) s = .next t ∧ exec (.nop y) s = .next t) ∧
    (∃ t, exec (.inc x) s = .next t ∧ exec (.inc y) s = .next t) ∧
    (∃ t, exec (.dec x) s = .next t ∧ exec (.dec y) s = .next t) ∧
    (∃ t, exec (.ret x) s = .next t ∧ exec (.ret y) s = .next t) ∧
    (∃ t, exec (.push x) s = .next t ∧ exec (.push y) s = .next t) ∧
    (∃ t, exec (.pop x) s = .next t ∧ exec (.pop y) s = .next t) ∧
    (∃ t, exec (.halt x) s = .next t ∧ exec (.halt y) s = .next t) ∧
    (∃ t, exec (.invalid op x) s = .next t ∧ exec (.invalid op y) s = .next t)

/-! ### Encoding -/

/-- Decode of encode is the instruction, with every operand byte and every invalid opcode, and the bytes that
follow are handed back (30_encoding.md sections 1 to 4). -/
def Obligations.DecodeOfEncodeIsTheInstruction : Prop :=
  ∀ (i : Instr) (rest : List Byte), i.WellFormed → decode (encode i ++ rest) = .ok (i, rest)

/-- The other direction: every two bytes decode, to a well-formed instruction whose encoding is exactly those two
bytes, so the 65536 words and the well-formed instructions stand one to one (30_encoding.md R54). -/
def Obligations.EveryTwoBytesAreTheEncodingOfTheirDecoding : Prop :=
  ∀ (op x : Byte) (rest : List Byte),
    ∃ i : Instr, decode (op :: x :: rest) = .ok (i, rest) ∧ i.WellFormed ∧ encode i = [op, x]

/-- R52: the 17 defined opcode bytes select their instruction and every other byte is invalid, whatever its
low four bits. -/
def Obligations.OpcodeByteIsDecodedWhole : Prop :=
  ∀ x : Byte,
    decode [0x00, x] = .ok (.nop x, []) ∧ decode [0x01, x] = .ok (.load x, []) ∧
    decode [0x02, x] = .ok (.store x, []) ∧ decode [0x03, x] = .ok (.add x, []) ∧
    decode [0x04, x] = .ok (.sub x, []) ∧ decode [0x05, x] = .ok (.cmp x, []) ∧
    decode [0x06, x] = .ok (.inc x, []) ∧ decode [0x07, x] = .ok (.dec x, []) ∧
    decode [0x08, x] = .ok (.jmp x, []) ∧ decode [0x09, x] = .ok (.jz x, []) ∧
    decode [0x0A, x] = .ok (.jnz x, []) ∧ decode [0x0B, x] = .ok (.call x, []) ∧
    decode [0x0C, x] = .ok (.ret x, []) ∧ decode [0x0D, x] = .ok (.out x, []) ∧
    decode [0x0E, x] = .ok (.push x, []) ∧ decode [0x0F, x] = .ok (.pop x, []) ∧
    decode [0xFF, x] = .ok (.halt x, []) ∧
    ∀ op : Byte, 0x10 ≤ op.toNat → op.toNat ≤ 0xFE → decode [op, x] = .ok (.invalid op x, [])

/-- A few words of the opcode map written out bit by bit (R55), as a check of the decoder's table. -/
def Obligations.SampleWordsDecode : Prop :=
  decode [0b00000001#8, 0b00010000#8] = .ok (.load 0x10, []) ∧
  decode [0b00000100#8, 0b00100001#8] = .ok (.sub 0x21, []) ∧
  decode [0b00001010#8, 0b00000000#8] = .ok (.jnz 0x00, []) ∧
  decode [0b00001110#8, 0b00000000#8] = .ok (.push 0x00, []) ∧
  decode [0b11111111#8, 0b01110111#8] = .ok (.halt 0x77, []) ∧
  decode [0b00011111#8, 0b00000000#8] = .ok (.invalid 0x1F 0x00, [])

/-! ### The step -/

/-- R66: a step of a running machine executes the instruction that the bytes at `PC` and `(PC + 1) mod 256`
decode to, at that very state (R38: the bytes are latched before anything is written). -/
def Obligations.RunningStepExecutesTheDecodedInstruction : Prop :=
  ∀ (s : State) (p q : Addr) (i : Instr), s.cpu.run = true →
    p.toNat = s.cpu.pc.toNat → q.toNat = (s.cpu.pc.toNat + 1) % 256 →
    decode [readByte s p, readByte s q] = .ok (i, []) → step s = exec i s

/-- The word that `withFetchWord` places stands at `PC` and `(PC + 1) mod 256` and is what the next step runs, and
every other byte and register is as before (the model's own function; log entries 1 and 17). -/
def Obligations.PlacedWordIsExecutedNext : Prop :=
  ∀ (s : State) (op x : Byte),
    ∃ u, u = s.withFetchWord 16 (op.toNat * 256 + x.toNat) ∧
      readByte u s.cpu.pc = op ∧ readByte u (s.cpu.pc + 1) = x ∧
      (∃ i, decode [op, x] = .ok (i, []) ∧ step u = exec i u) ∧
      (∀ b : Addr, b ≠ s.cpu.pc → b ≠ s.cpu.pc + 1 → readByte u b = readByte s b) ∧
      u.cpu.a = s.cpu.a ∧ u.cpu.z = s.cpu.z ∧ u.cpu.pc = s.cpu.pc ∧ u.cpu.sp = s.cpu.sp ∧
      u.cpu.run = true ∧ u.cpu.cc = s.cpu.cc ∧ u.cpu.vb = s.cpu.vb ∧ u.events = s.events

/-- A halted machine stays as it is for any number of steps (40_step_cycle.md section 1; that a step then does
nothing is the spec's own choice D11, log entry 10). -/
def Obligations.HaltedMachineNeverChanges : Prop :=
  ∀ (n : Nat) (s : State), s.cpu.run = false → Host.Core.run Sys2Proof.core n s = .next s

/-- No run is ever stuck, faulted or refused: any number of steps from any state answers a state
(40_step_cycle.md section 2, the inference R72; 60_exceptions.md section 1; that a halted machine answers a step is
the spec's own choice D11, log entry 10). -/
def Obligations.EveryRunAnswersAState : Prop :=
  ∀ (n : Nat) (s : State), ∃ t, Host.Core.run Sys2Proof.core n s = .next t

/-- The machine's step is the pseudocode of R70, written out over natural numbers in Sys2Proof/Reference.lean.
LOAD's flag (D1), the ungated pushes (D2), the halted step (D11), the `PC` of a halt (D12), the events (D13, D14)
and the moment the gate samples `VB` (D23) are the spec's own choices. -/
def Obligations.StepRefinesThePseudocode : Prop :=
  ∀ s : State, ∃ t, step s = .next t ∧
    Reference.abstractState t = (Reference.abstractState s).step

/-! ### Invariants -/

/-- The invariant holds after every reset, whatever the open parameters (10_state.md R25; `CC = 0`, `VB = true`
and the empty stream are the spec's own choices D3, D4, D13, log entry 5). -/
def Obligations.ResetMeetsTheInvariant : Prop :=
  ∀ (m : Memory) (entry : Addr) (a : Byte) (z : Bool), m.wf = true → (State.resetWith m entry a z).Inv

/-- Every step keeps: memory in its canonical form over 0x00 to 0xFF, `VB = ((CC mod 64) < 8)`, and an
`IllegalOpcode` event only last and only on a halted machine (10_state.md R21, 40_step_cycle.md R73; with D11 for
the halted step and D13 for the stream, log entries 10 and 13). -/
def Obligations.EveryStepKeepsTheInvariant : Prop :=
  ∀ s t : State, s.Inv → step s = .next t → t.Inv

/-- The host's writes between steps and the loader keep the invariant too (60_exceptions.md section 11,
70_reset_and_hazards.md section 3). Which writes there are is the spec's own choice D22, and which files load is
D21; that a halted machine takes no host write is DEDUCED (log entries 14 and 15). -/
def Obligations.HostWritesAndLoaderKeepTheInvariant : Prop :=
  ∀ s : State, s.Inv →
    (∀ (w : HostWrite) (t : State), hostWrite w s = some t → t.Inv) ∧
    (∀ file : List Byte, (loadFile file s).1.Inv)

/-- Two canonical memories that read the same everywhere are the same data (the model's own convention,
log entry 3). -/
def Obligations.CanonicalMemoryIsUnique : Prop :=
  ∀ m k : Memory, m.wf = true → k.wf = true → (∀ b : Addr, m.read b = k.read b) → m = k

/-! ### Rules about the whole machine -/

/-- R122: exactly the listed instructions advance `CC`, each by one: NOP, LOAD, STORE, ADD, SUB, CMP, INC, DEC,
RET, OUT, PUSH, POP, JZ not taken and JNZ not taken; every other step leaves it. -/
def Obligations.CounterCountsExactlyTheFallThroughSteps : Prop :=
  ∀ (s : State) (op : Byte), op = readByte s s.cpu.pc → ∃ t, step s = .next t ∧
    t.cpu.cc = s.cpu.cc +
      (if s.cpu.run = true ∧
          (op.toNat ≤ 0x07 ∨ (op.toNat = 0x09 ∧ s.cpu.z = false) ∨ (op.toNat = 0x0A ∧ s.cpu.z = true) ∨
            (0x0C ≤ op.toNat ∧ op.toNat ≤ 0x0F)) then 1 else 0)

/-- `VB` changes only with the counter: a step that leaves `CC` leaves `VB`, and one that advances it leaves
`VB = ((CC mod 64) < 8)` (46_vblank_and_gate.md section 1; the halted step is D11, log entry 10). -/
def Obligations.VblankFollowsTheCounter : Prop :=
  ∀ s : State, ∃ t, step s = .next t ∧
    ((t.cpu.cc = s.cpu.cc ∧ t.cpu.vb = s.cpu.vb) ∨
      (t.cpu.cc = s.cpu.cc + 1 ∧ t.cpu.vb = decide (t.cpu.cc % 64 < 8)))

/-- Who writes `A`, `Z` and `SP` (10_state.md R23, an inference of the spec, with D1 for LOAD's `Z`
and D11 for the halted step, log entries 6 and 10): no other
step changes them, and `SP` moves by one in the direction the instruction gives. -/
def Obligations.OnlyTheListedInstructionsWriteAZSp : Prop :=
  ∀ (s : State) (op : Nat), op = (readByte s s.cpu.pc).toNat → ∃ t, step s = .next t ∧
    (¬ (s.cpu.run = true ∧ op ∈ [0x01, 0x03, 0x04, 0x06, 0x07, 0x0F]) → t.cpu.a = s.cpu.a) ∧
    (¬ (s.cpu.run = true ∧ op ∈ [0x01, 0x03, 0x04, 0x05, 0x06, 0x07, 0x0F]) → t.cpu.z = s.cpu.z) ∧
    t.cpu.sp.toNat =
      (s.cpu.sp.toNat +
        (if s.cpu.run = true ∧ (op = 0x0B ∨ op = 0x0E) then 255
         else if s.cpu.run = true ∧ (op = 0x0C ∨ op = 0x0F) then 1 else 0)) % 256

/-- A step changes no byte of memory but the one at the operand address of a STORE or at the `SP` of a CALL or
PUSH (20_memory.md section 5; the halted step is the spec's own choice D11, log entry 10). -/
def Obligations.OnlyTheStoreAddressChanges : Prop :=
  ∀ s : State, ∃ t, step s = .next t ∧
    ∀ b : Addr,
      ¬ (s.cpu.run = true ∧ (readByte s s.cpu.pc).toNat = 0x02 ∧
          b = directAddr (readByte s (s.cpu.pc + 1))) →
      ¬ (s.cpu.run = true ∧ ((readByte s s.cpu.pc).toNat = 0x0B ∨ (readByte s s.cpu.pc).toNat = 0x0E) ∧
          b = pushAddr s) →
      readByte t b = readByte s b

/-- While the window is closed no step changes a byte of 0xE0 to 0xFF, unless it is a CALL or PUSH with `SP`
there (46_vblank_and_gate.md section 2; that those land is the spec's own choice D2, log entry 7). That a STORE is
denied in phase 63 too, whose own epilogue opens the window (section 1, the inference R124), rests on D23: the gate
reads `VB` before that epilogue (log entry 9). The halted step is D11 (log entry 10). -/
def Obligations.ClosedWindowProtectsTheFramebuffer : Prop :=
  ∀ s : State, s.cpu.vb = false →
    (s.cpu.run = true → (readByte s s.cpu.pc).toNat = 0x0B ∨ (readByte s s.cpu.pc).toNat = 0x0E →
      s.cpu.sp.toNat < 0xE0) →
    ∃ t, step s = .next t ∧ ∀ b : Addr, 0xE0 ≤ b.toNat → readByte t b = readByte s b

/-- A step appends at most one event, and exactly these: OUT's report, a denied STORE, an invalid opcode
(10_state.md section 10, 46_vblank_and_gate.md section 2; the payloads are the spec's own choice D13, D14, log entry
13). That a STORE is denied by `VB` as it was before its own epilogue is D23 (log entry 9), and that a halted
machine emits nothing is D11 (40_step_cycle.md section 1, log entry 10). -/
def Obligations.StepEmitsExactlyTheseEvents : Prop :=
  ∀ (s : State) (op x : Byte), op = readByte s s.cpu.pc → x = readByte s (s.cpu.pc + 1) →
    ∃ t, step s = .next t ∧
      t.events = s.events ++
        (if s.cpu.run = false then []
         else if op.toNat = 0x0D then [.out x (readByte s x)]
         else if op.toNat = 0x02 ∧ 0xE0 ≤ x.toNat ∧ s.cpu.vb = false then [.vramWriteDenied x]
         else if 0x10 ≤ op.toNat ∧ op.toNat ≤ 0xFE then [.illegalOpcode op s.cpu.pc]
         else [])

/-- `RUN` stays true exactly when a running machine fetches one of the opcodes 0x00 to 0x0F; nothing sets it
true (10_state.md R16, 40_step_cycle.md section 1; the halted step is the spec's own choice D11, log entry 10). -/
def Obligations.RunIsClearedOnlyByHaltAndInvalid : Prop :=
  ∀ s : State, ∃ t, step s = .next t ∧
    (t.cpu.run = true ↔ s.cpu.run = true ∧ (readByte s s.cpu.pc).toNat < 0x10)

/-- From a state that meets the invariant the stream tells a clean halt from an illegal one (40_step_cycle.md
R73, R75; reading the cause from the last event is the spec's own choice D29, and the event's payload D13, log
entry 13). -/
def Obligations.StreamTellsTheHaltsApart : Prop :=
  ∀ (s : State) (op : Byte), s.Inv → s.cpu.run = true → op = readByte s s.cpu.pc → ∃ t, step s = .next t ∧
    (op.toNat < 0x10 → t.haltCause = none) ∧
    (op.toNat = 0xFF → t.haltCause = some .clean) ∧
    (0x10 ≤ op.toNat → op.toNat < 0xFF → t.haltCause = some (.illegal op s.cpu.pc))

/-- A HALT and an invalid opcode leave the same CPU state and differ in the stream alone (60_exceptions.md
section 1; with D12 for the unchanged `PC` and D13 for the events, log entries 8 and 13). -/
def Obligations.TheTwoHaltsLeaveTheSameCpuState : Prop :=
  ∀ (op x y : Byte) (s : State), ∃ t u, exec (.halt x) s = .next t ∧ exec (.invalid op y) s = .next u ∧
    t.cpu = u.cpu ∧ t.events ≠ u.events

/-- Nothing reads the stream: with the same core state any other stream gives the same core state after any
number of steps, and the same events appended (10_state.md section 10; the halted step is D11, log entry 10). -/
def Obligations.StreamIsNeverRead : Prop :=
  ∀ (n : Nat) (c : Cpu) (d e : List Event), ∃ (c' : Cpu) (new : List Event),
    Host.Core.run Sys2Proof.core n (⟨c, d⟩ : State) = .next (⟨c', d ++ new⟩ : State) ∧
    Host.Core.run Sys2Proof.core n (⟨c, e⟩ : State) = .next (⟨c', e ++ new⟩ : State)

/-- Only the phase `CC mod 64` can be observed: two states alike but for `CC`, with the same phase, stay so for
any number of steps (10_state.md R17 with the spec's own choices D5 and, for the halted step, D11; log entries 10
and 11). -/
def Obligations.OnlyThePhaseOfTheCounterMatters : Prop :=
  ∀ (n : Nat) (s : State) (k : Nat), k % 64 = s.cpu.cc % 64 → ∃ (t : State) (k' : Nat),
    Host.Core.run Sys2Proof.core n s = .next t ∧
    Host.Core.run Sys2Proof.core n (s.withCc k) = .next (t.withCc k') ∧ k' % 64 = t.cpu.cc % 64

/-- Which memory bytes a step can depend on (20_memory.md R38, 10_state.md R23): the two it fetches; the operand
address for LOAD, ADD, SUB, CMP, OUT; the byte above the stack for RET and POP. Two states with the same
registers and stream that agree there answer the same registers and stream. What OUT reports is D14, and the halted
step D11 (log entries 10 and 13). -/
def Obligations.StepReadsOnlyTheListedBytes : Prop :=
  ∀ (s : State) (m : Memory) (op x : Byte), op = readByte s s.cpu.pc → x = readByte s (s.cpu.pc + 1) →
    m.read s.cpu.pc = op → m.read (s.cpu.pc + 1) = x →
    (op.toNat ∈ [0x01, 0x03, 0x04, 0x05, 0x0D] → m.read x = readByte s x) →
    (op.toNat ∈ [0x0C, 0x0F] → m.read (s.cpu.sp + 1) = readByte s (s.cpu.sp + 1)) →
    ∃ (t : State) (m' : Memory), step s = .next t ∧ step (s.withMem m) = .next (t.withMem m')

/-! ### Two instructions together -/

/-- R108: PUSH, then anything that leaves `SP` and the pushed byte, then POP restores `A` and `SP`; the byte stays
and `Z` is recomputed. -/
def Obligations.PushThenPopRestoresAAndSp : Prop :=
  ∀ (x y : Byte) (s : State), ∃ t, exec (.push x) s = .next t ∧
    ∀ u : State, u.cpu.sp = t.cpu.sp → readByte u s.cpu.sp = readByte t s.cpu.sp →
      ∃ v, exec (.pop y) u = .next v ∧ v.cpu.a = s.cpu.a ∧ v.cpu.sp = s.cpu.sp ∧
        readByte v s.cpu.sp = s.cpu.a ∧ v.cpu.z = decide (s.cpu.a.toNat = 0)

/-- The matching RET of a CALL at `c` resumes at `c + 4` and restores `SP` (43_control_transfer.md sections 5 and
6, 90_conflicts.md C2; with D2 where the stack lies in 0xE0 to 0xFF). -/
def Obligations.RetOfACallSkipsOneInstruction : Prop :=
  ∀ (x y : Byte) (s : State), ∃ t, exec (.call x) s = .next t ∧
    ∀ u : State, u.cpu.sp = t.cpu.sp → readByte u s.cpu.sp = readByte t s.cpu.sp →
      ∃ v, exec (.ret y) u = .next v ∧ v.cpu.pc.toNat = (s.cpu.pc.toNat + 4) % 256 ∧ v.cpu.sp = s.cpu.sp

/-- The two push forms and the two pop forms mix: RET takes a byte that PUSH left and resumes two past it, POP
reads the return address that CALL left (44_stack.md section 3; with D2 where the stack lies in 0xE0 to 0xFF). -/
def Obligations.PushFormsAndPopFormsMix : Prop :=
  ∀ (x y : Byte) (s : State),
    (∃ t, exec (.push x) s = .next t ∧
      ∃ v, exec (.ret y) t = .next v ∧ v.cpu.pc.toNat = (s.cpu.a.toNat + 2) % 256 ∧ v.cpu.sp = s.cpu.sp) ∧
    (∃ t, exec (.call x) s = .next t ∧
      ∃ v, exec (.pop y) t = .next v ∧ v.cpu.a.toNat = (s.cpu.pc.toNat + 2) % 256 ∧ v.cpu.sp = s.cpu.sp)

/-- ADD then SUB of the same unchanged cell restores `A`, so does INC then DEC, and SUB leaves the `Z` that CMP
leaves (42_arithmetic.md R91, an inference of the spec). -/
def Obligations.ArithmeticUndoesItself : Prop :=
  ∀ (x y : Byte) (s : State),
    (∃ t u, exec (.add x) s = .next t ∧ exec (.sub x) t = .next u ∧ u.cpu.a = s.cpu.a) ∧
    (∃ t u, exec (.inc x) s = .next t ∧ exec (.dec y) t = .next u ∧ u.cpu.a = s.cpu.a) ∧
    (∃ t u, exec (.sub x) s = .next t ∧ exec (.cmp x) s = .next u ∧ t.cpu.z = u.cpu.z)

/-- The edges of the window, for a STORE to 0xE0 to 0xFF in a state with `VB = ((CC mod 64) < 8)`: in phase 7 it lands
and closes the window, in phase 8 it is denied, in phase 63 it is denied and opens the window, and in general it
lands exactly in phases 0 to 7 (46_vblank_and_gate.md R124, an inference of the spec, with D23). -/
def Obligations.StoreLandsExactlyInPhasesZeroToSeven : Prop :=
  ∀ (x : Addr) (s : State), 0xE0 ≤ x.toNat → s.cpu.vb = decide (s.cpu.cc % 64 < 8) →
    ∃ t, exec (.store x) s = .next t ∧
      (s.cpu.cc % 64 < 8 → readByte t x = s.cpu.a) ∧
      (8 ≤ s.cpu.cc % 64 → readByte t x = readByte s x) ∧
      (s.cpu.cc % 64 = 7 → t.cpu.vb = false) ∧
      (s.cpu.cc % 64 = 63 → t.cpu.vb = true)

/-- Self-modifying code (20_memory.md R44, an inference of the spec): a STORE over the next instruction's opcode, not
denied by the gate, is what the next step executes. That one to 0xE0 to 0xFF with `VB` true lands in phase 7 too, whose
own epilogue closes the window, rests on D23: the gate reads `VB` before that epilogue (46_vblank_and_gate.md section
2, log entry 9). That the byte stored there is fetched while the window is closed is D27 (log entry 22). -/
def Obligations.StoredOpcodeIsExecutedNext : Prop :=
  ∀ s : State, s.cpu.run = true → readByte s s.cpu.pc = 0x02 → readByte s (s.cpu.pc + 1) = s.cpu.pc + 2 →
    ¬ (0xE0 ≤ (s.cpu.pc + 2).toNat ∧ s.cpu.vb = false) →
    ∃ t i, step s = .next t ∧ decode [s.cpu.a, readByte s (s.cpu.pc + 3)] = .ok (i, []) ∧ step t = exec i t

/-! ### Reset, the host, the loader, the framebuffer -/

/-- What reset leaves (10_state.md R25, 70_reset_and_hazards.md R170): `SP = 0x5F` from the source, `RUN`, `CC`, `VB` and
the empty stream from the spec's own choices D3, D4, D10, D13, the four open parameters as given. The last line is
the model's choice for them in `State.reset` (DESIGN CHOICE, log entries 3 and 4). -/
def Obligations.ResetLeavesTheGivenValues : Prop :=
  (∀ (m : Memory) (entry : Addr) (a : Byte) (z : Bool), ∃ s, s = State.resetWith m entry a z ∧
    s.cpu.sp.toNat = 0x5F ∧ s.cpu.pc = entry ∧ s.cpu.run = true ∧ s.cpu.cc = 0 ∧ s.cpu.vb = true ∧
    s.cpu.a = a ∧ s.cpu.z = z ∧ (∀ b : Addr, readByte s b = m.read b) ∧ s.events = []) ∧
  State.reset = State.resetWith [] 0x00 0x00 false ∧ ∀ b : Addr, readByte State.reset b = 0x00

/-- The host's writes between steps (60_exceptions.md section 11, D22): a byte of memory, not gated; `A` with `Z`
recomputed; `PC` and `SP` raw; nothing else changes. Once halted none is taken (log entry 14). -/
def Obligations.HostWritesOnlyWhatItNames : Prop :=
  (∀ (w : HostWrite) (s : State), s.cpu.run = false → hostWrite w s = none) ∧
  (∀ s : State, s.cpu.run = true →
    (∀ (b : Addr) (v : Byte), ∃ t, hostWrite (.mem b v) s = some t ∧ readByte t b = v ∧ SameMemBut b s t ∧
      ({ t.cpu with mem := s.cpu.mem } : Cpu) = s.cpu ∧ t.events = s.events) ∧
    (∀ v : Byte, ∃ t, hostWrite (.acc v) s = some t ∧ t.cpu.a = v ∧ t.cpu.z = decide (v.toNat = 0) ∧
      ({ t.cpu with a := s.cpu.a, z := s.cpu.z } : Cpu) = s.cpu ∧ t.events = s.events) ∧
    (∀ v : Addr, ∃ t, hostWrite (.pc v) s = some t ∧ t.cpu.pc = v ∧
      ({ t.cpu with pc := s.cpu.pc } : Cpu) = s.cpu ∧ t.events = s.events) ∧
    (∀ v : Addr, ∃ t, hostWrite (.sp v) s = some t ∧ t.cpu.sp = v ∧
      ({ t.cpu with sp := s.cpu.sp } : Cpu) = s.cpu ∧ t.events = s.events))

/-- A file whose first three bytes are not 0x54 0x34 0x43 is rejected and alters no CPU state (70_reset_and_hazards.md
section 3, R177). That a file which is also too short is reported as bad magic, and not as short, is the model's
choice of the order of the checks (DESIGN CHOICE, log entry 15). -/
def Obligations.BadMagicIsRejectedUnchanged : Prop :=
  ∀ (file : List Byte) (s : State), file.take 3 ≠ [0x54, 0x34, 0x43] →
    loadFile file s = (s, .rejected .badMagic)

/-- A container with N program bytes that fit is loaded: byte `k` of the image lands at the load address plus `k`,
every other byte keeps its value, `PC` is the entry point, nothing else changes, and a non-zero padding byte is
only warned about (70_reset_and_hazards.md section 3, R176). That every version byte is taken is the spec's own
choice D21, and that bytes after the image are ignored is the model's (DESIGN CHOICE, both in log entry 15). -/
def Obligations.GoodContainerIsCopiedAndEntered : Prop :=
  ∀ (version load entry size pad : Byte) (body : List Byte) (s : State),
    size.toNat ≤ body.length → load.toNat + size.toNat ≤ 256 →
    ∃ t, loadFile (0x54 :: 0x34 :: 0x43 :: version :: load :: entry :: size :: pad :: body) s =
        (t, .loaded (decide (pad ≠ 0))) ∧
      t.cpu.pc = entry ∧
      (∀ b : Addr, readByte t b =
        if load.toNat ≤ b.toNat ∧ b.toNat < load.toNat + size.toNat then body.getD (b.toNat - load.toNat) 0
        else readByte s b) ∧
      ({ t.cpu with mem := s.cpu.mem, pc := s.cpu.pc } : Cpu) = s.cpu ∧ t.events = s.events

/-- The layout of the framebuffer (20_memory.md section 8): pixel `(x, y)` is bit `x mod 8` of the row's first byte
`M[0xE0 + 2*y]` for columns 0 to 7 and of its second for columns 8 to 15. Counting bits from the least significant
is the spec's own choice D20 (log entry 16). -/
def Obligations.PixelIsTheBitOfItsRowByte : Prop :=
  ∀ (m : Memory) (x y : Fin 16) (b : Addr), b.toNat = 0xE0 + 2 * y.val + x.val / 8 →
    pixel m x y = decide ((m.read b).toNat / 2 ^ (x.val % 8) % 2 = 1)

/-- The disassembler stays in step with the executor (30_encoding.md R61): the instruction on line `k` is what the
decoder reads from the two bytes at the start address plus `2*k`. -/
def Obligations.ListingAgreesWithTheDecoder : Prop :=
  ∀ (m : Memory) (addr : Addr) (n k : Nat), k < n → ∃ (p q : Addr) (i : Instr),
    p.toNat = (addr.toNat + 2 * k) % 256 ∧ q.toNat = (addr.toNat + 2 * k + 1) % 256 ∧
    decode [m.read p, m.read q] = .ok (i, []) ∧ (disassemble m addr n)[k]? = some (p, i)

/-- The two switches of R5, both values each (92_eei_decisions.md D1, D2): LOAD's reading changes `Z` alone, and the
reading of the stack's write changes only whether a write to 0xE0 to 0xFF lands while `VB` is false. -/
def Obligations.SwitchesDifferOnlyWhereTheSpecSays : Prop :=
  (∀ (v : Byte) (s : State), loadA true v s = setA v s ∧ (loadA false v s).cpu.z = s.cpu.z ∧
    ∃ z, loadA false v s = (loadA true v s).withZ z) ∧
  (∀ (v : Byte) (s : State),
    (¬ (0xE0 ≤ s.cpu.sp.toNat ∧ s.cpu.vb = false) → pushByte true v s = pushByte false v s) ∧
    (0xE0 ≤ s.cpu.sp.toNat → s.cpu.vb = false →
      SameMem s (pushByte true v s) ∧ (pushByte true v s).cpu.sp = (pushByte false v s).cpu.sp ∧
      (pushByte true v s).events = s.events ++ [.vramWriteDenied s.cpu.sp]))
end

