-- ==== Sys2Proof/Laws/Decode.lean ====
section
/-! SUPPORT. The decoder's laws. -/

namespace Sys2Proof

/-- No opcode byte stands in two rows of the map, so at most one row applies (R54). -/
theorem opcodeTable_nodup : (opcodeTable.map Prod.fst).Nodup := by decide

/-- The map has `N_OPCODES` rows (R4, R55). -/
theorem opcodeTable_length : opcodeTable.length = Config.nOpcodes := rfl

/-- A byte in 0x10 to 0xFE selects no defined row (R56). -/
theorem lookup_invalid : ∀ op : Byte, isInvalidOpcode op = true → (opcodeTable.lookup op).isNone = true := by
  decide

/-- A byte outside 0x10 to 0xFE selects a defined row (R55). -/
theorem lookup_defined : ∀ op : Byte, isInvalidOpcode op = false → (opcodeTable.lookup op).isSome = true := by
  decide

theorem decodePair_invalid {op : Byte} (h : isInvalidOpcode op = true) (x : Byte) :
    decodePair op x = .invalid op x := by
  have := lookup_invalid op h
  rw [decodePair]
  cases hl : opcodeTable.lookup op with
  | none => rfl
  | some f => simp [hl] at this

theorem isInvalidOpcode_iff (op : Byte) : isInvalidOpcode op = true ↔ 0x10 ≤ op.toNat ∧ op.toNat ≤ 0xFE := by
  simp [isInvalidOpcode, Config.invalidFirst, Config.invalidLast, BitVec.ule]

theorem isInvalidOpcode_eq_false_iff (op : Byte) :
    isInvalidOpcode op = false ↔ op.toNat < 0x10 ∨ op.toNat = 0xFF := by
  have := op.isLt
  rw [← Bool.not_eq_true, isInvalidOpcode_iff]
  omega

/-- The decoder reads two bytes and hands back the rest. -/
theorem decode_cons_cons (op x : Byte) (rest : List Byte) :
    decode (op :: x :: rest) = .ok (decodePair op x, rest) := rfl

/-- Everything an opcode byte can select: one row of the map, by number. -/
theorem decodePair_cases (op x : Byte) :
    (op = 0x00 ∧ decodePair op x = .nop x) ∨ (op = 0x01 ∧ decodePair op x = .load x) ∨
    (op = 0x02 ∧ decodePair op x = .store x) ∨ (op = 0x03 ∧ decodePair op x = .add x) ∨
    (op = 0x04 ∧ decodePair op x = .sub x) ∨ (op = 0x05 ∧ decodePair op x = .cmp x) ∨
    (op = 0x06 ∧ decodePair op x = .inc x) ∨ (op = 0x07 ∧ decodePair op x = .dec x) ∨
    (op = 0x08 ∧ decodePair op x = .jmp x) ∨ (op = 0x09 ∧ decodePair op x = .jz x) ∨
    (op = 0x0A ∧ decodePair op x = .jnz x) ∨ (op = 0x0B ∧ decodePair op x = .call x) ∨
    (op = 0x0C ∧ decodePair op x = .ret x) ∨ (op = 0x0D ∧ decodePair op x = .out x) ∨
    (op = 0x0E ∧ decodePair op x = .push x) ∨ (op = 0x0F ∧ decodePair op x = .pop x) ∨
    (op = 0xFF ∧ decodePair op x = .halt x) ∨
    (0x10 ≤ op.toNat ∧ op.toNat ≤ 0xFE ∧ decodePair op x = .invalid op x) := by
  by_cases h : isInvalidOpcode op = true
  · have hr := (isInvalidOpcode_iff op).mp h
    simp [hr.1, hr.2, decodePair_invalid h]
  · have hlt := (isInvalidOpcode_eq_false_iff op).mp (by simpa using h)
    obtain ⟨n, hn, rfl⟩ : ∃ n, n < 256 ∧ op = BitVec.ofNat 8 n := ⟨op.toNat, op.isLt, by simp⟩
    rw [BitVec.toNat_ofNat, Nat.mod_eq_of_lt hn] at hlt
    rcases hlt with h16 | rfl
    · interval_cases n <;> simp [decodePair, opcodeTable, List.lookup, Opcode.nop, Opcode.load, Opcode.store,
        Opcode.add, Opcode.sub, Opcode.cmp, Opcode.inc, Opcode.dec, Opcode.jmp, Opcode.jz, Opcode.jnz,
        Opcode.call, Opcode.ret, Opcode.out, Opcode.push, Opcode.pop]
    · right; right; right; right; right; right; right; right; right; right; right; right; right; right
      right; right; left
      exact ⟨rfl, rfl⟩

end Sys2Proof
end

