-- ==== Sys2Proof/Laws/Memory.lean ====
section
/-! SUPPORT. The laws of memory: a read after a write, the bytes a write leaves alone, and that every
operation keeps the canonical form. -/

namespace Sys2Proof.Machine

@[simp] theorem Memory.read_nil (b : Addr) : Memory.read [] b = Config.unlistedByte := rfl

theorem Memory.read_cons (k : Nat) (v : Byte) (m : Memory) (b : Addr) :
    Memory.read ((k, v) :: m) b = if k = b.toNat then v else Memory.read m b := rfl

@[simp] theorem Memory.read_erase_same (m : Memory) (b : Addr) :
    (m.erase b).read b = Config.unlistedByte := by
  induction m with
  | nil => rfl
  | cons c rest ih =>
    obtain ⟨k, v⟩ := c
    by_cases h : k = b.toNat
    · simpa [Memory.erase, List.filter_cons, h] using ih
    · simp only [Memory.erase, List.filter_cons, bne_iff_ne, ne_eq, h, not_false_eq_true, if_true,
        Memory.read_cons, if_false]
      exact ih

theorem Memory.read_erase_other (m : Memory) {b c : Addr} (h : c ≠ b) : (m.erase b).read c = m.read c := by
  have hn : b.toNat ≠ c.toNat := fun e => h (BitVec.eq_of_toNat_eq e.symm)
  induction m with
  | nil => rfl
  | cons p rest ih =>
    obtain ⟨k, v⟩ := p
    by_cases hk : k = b.toNat
    · have : k ≠ c.toNat := fun e => hn (hk ▸ e)
      simpa [Memory.erase, List.filter_cons, hk, Memory.read_cons, hn] using ih
    · simp only [Memory.erase, List.filter_cons, bne_iff_ne, ne_eq, hk, not_false_eq_true, if_true,
        Memory.read_cons]
      split
      · rfl
      · exact ih

theorem Memory.read_insert_same (m : Memory) (b : Addr) (v : Byte) (h : ∀ p ∈ m, p.1 ≠ b.toNat) :
    (Memory.insert b v m).read b = v := by
  induction m with
  | nil => simp [Memory.insert, Memory.read_cons]
  | cons p rest ih =>
    obtain ⟨k, w⟩ := p
    have hk : k ≠ b.toNat := h (k, w) (by simp)
    have := ih fun q hq => h q (by simp [hq])
    simp only [Memory.insert]
    split <;> simp [Memory.read_cons, hk, this]

theorem Memory.read_insert_other (m : Memory) {b c : Addr} (v : Byte) (h : c ≠ b) :
    (Memory.insert b v m).read c = m.read c := by
  have hn : b.toNat ≠ c.toNat := fun e => h (BitVec.eq_of_toNat_eq e.symm)
  induction m with
  | nil => simp [Memory.insert, Memory.read_cons, hn]
  | cons p rest ih =>
    obtain ⟨k, w⟩ := p
    simp only [Memory.insert]
    split <;> simp [Memory.read_cons, hn, ih]

theorem Memory.erase_addr_ne (m : Memory) (b : Addr) : ∀ p ∈ m.erase b, p.1 ≠ b.toNat := by
  intro p hp
  simpa using (List.mem_filter.mp hp).2

/-- A read of the byte just written gives the value written; every other byte reads as before. -/
@[simp] theorem Memory.read_write (m : Memory) (b c : Addr) (v : Byte) :
    (m.write b v).read c = if c = b then v else m.read c := by
  unfold Memory.write
  split
  · rename_i hv
    split
    · rename_i h; subst h; simp [hv]
    · rename_i h; exact Memory.read_erase_other m h
  · split
    · rename_i h; subst h; exact Memory.read_insert_same _ _ _ (Memory.erase_addr_ne m c)
    · rename_i h; rw [Memory.read_insert_other _ _ h, Memory.read_erase_other m h]

theorem Memory.wfFrom_cons (low k : Nat) (v : Byte) (m : Memory) :
    Memory.wfFrom low ((k, v) :: m) = true ↔
      low ≤ k ∧ k < 256 ∧ v ≠ Config.unlistedByte ∧ Memory.wfFrom (k + 1) m = true := by
  simp only [Memory.wfFrom, Bool.and_eq_true, decide_eq_true_eq, bne_iff_ne, and_assoc]
  exact Iff.rfl

theorem Memory.wfFrom_mono {low high : Nat} (h : low ≤ high) : ∀ {m : Memory},
    Memory.wfFrom high m = true → Memory.wfFrom low m = true
  | [], _ => rfl
  | (k, v) :: rest, hm => by
    rw [Memory.wfFrom_cons] at hm ⊢
    exact ⟨h.trans hm.1, hm.2⟩

theorem Memory.wfFrom_erase (b : Addr) : ∀ {low : Nat} {m : Memory},
    Memory.wfFrom low m = true → Memory.wfFrom low (m.erase b) = true
  | _, [], _ => rfl
  | low, (k, v) :: rest, hm => by
    rw [Memory.wfFrom_cons] at hm
    have ih := Memory.wfFrom_erase b (m := rest) hm.2.2.2
    by_cases hk : k = b.toNat
    · have : Memory.erase ((k, v) :: rest) b = Memory.erase rest b := by
        simp [Memory.erase, hk]
      rw [this]
      exact Memory.wfFrom_mono (by omega) ih
    · have : Memory.erase ((k, v) :: rest) b = (k, v) :: Memory.erase rest b := by
        simp [Memory.erase, hk]
      rw [this, Memory.wfFrom_cons]
      exact ⟨hm.1, hm.2.1, hm.2.2.1, ih⟩

theorem Memory.wfFrom_insert (b : Addr) {v : Byte} (hv : v ≠ Config.unlistedByte) : ∀ {low : Nat} {m : Memory},
    low ≤ b.toNat → (∀ p ∈ m, p.1 ≠ b.toNat) → Memory.wfFrom low m = true →
      Memory.wfFrom low (Memory.insert b v m) = true
  | low, [], hl, _, _ => by
    rw [Memory.insert, Memory.wfFrom_cons]
    exact ⟨hl, b.isLt, hv, rfl⟩
  | low, (k, w) :: rest, hl, hne, hm => by
    rw [Memory.wfFrom_cons] at hm
    have hk : k ≠ b.toNat := hne (k, w) (by simp)
    simp only [Memory.insert]
    split
    · rename_i hlt
      rw [Memory.wfFrom_cons, Memory.wfFrom_cons]
      exact ⟨hl, b.isLt, hv, hlt, hm.2⟩
    · rename_i hge
      rw [Memory.wfFrom_cons]
      exact ⟨hm.1, hm.2.1, hm.2.2.1,
        Memory.wfFrom_insert b hv (by omega) (fun p hp => hne p (by simp [hp])) hm.2.2.2⟩

/-- Erasing an address keeps the canonical form. -/
theorem Memory.wf_erase {m : Memory} (b : Addr) (h : m.wf = true) : (m.erase b).wf = true :=
  Memory.wfFrom_erase b h

/-- A write keeps the canonical form. -/
theorem Memory.wf_write {m : Memory} (b : Addr) (v : Byte) (h : m.wf = true) : (m.write b v).wf = true := by
  unfold Memory.write
  split
  · exact Memory.wf_erase b h
  · rename_i hv
    exact Memory.wfFrom_insert b hv (Nat.zero_le _) (Memory.erase_addr_ne m b) (Memory.wf_erase b h)

/-- The memory of the reset state has the canonical form. -/
theorem Memory.wf_reset : State.reset.cpu.mem.wf = true := rfl

end Sys2Proof.Machine
end

