-- ==== Sys2Proof/Laws/State.lean ====
section
/-! SUPPORT. One lemma per field per update of the state, so that no proof unfolds a record update. -/

namespace Sys2Proof.Machine

@[simp] theorem State.withMem_mem (s : State) (m : Memory) : (s.withMem m).cpu.mem = m := rfl
@[simp] theorem State.withMem_a (s : State) (m : Memory) : (s.withMem m).cpu.a = s.cpu.a := rfl
@[simp] theorem State.withMem_z (s : State) (m : Memory) : (s.withMem m).cpu.z = s.cpu.z := rfl
@[simp] theorem State.withMem_pc (s : State) (m : Memory) : (s.withMem m).cpu.pc = s.cpu.pc := rfl
@[simp] theorem State.withMem_sp (s : State) (m : Memory) : (s.withMem m).cpu.sp = s.cpu.sp := rfl
@[simp] theorem State.withMem_run (s : State) (m : Memory) : (s.withMem m).cpu.run = s.cpu.run := rfl
@[simp] theorem State.withMem_cc (s : State) (m : Memory) : (s.withMem m).cpu.cc = s.cpu.cc := rfl
@[simp] theorem State.withMem_vb (s : State) (m : Memory) : (s.withMem m).cpu.vb = s.cpu.vb := rfl
@[simp] theorem State.withMem_events (s : State) (m : Memory) : (s.withMem m).events = s.events := rfl

@[simp] theorem State.withA_mem (s : State) (v : Byte) : (s.withA v).cpu.mem = s.cpu.mem := rfl
@[simp] theorem State.withA_a (s : State) (v : Byte) : (s.withA v).cpu.a = v := rfl
@[simp] theorem State.withA_z (s : State) (v : Byte) : (s.withA v).cpu.z = s.cpu.z := rfl
@[simp] theorem State.withA_pc (s : State) (v : Byte) : (s.withA v).cpu.pc = s.cpu.pc := rfl
@[simp] theorem State.withA_sp (s : State) (v : Byte) : (s.withA v).cpu.sp = s.cpu.sp := rfl
@[simp] theorem State.withA_run (s : State) (v : Byte) : (s.withA v).cpu.run = s.cpu.run := rfl
@[simp] theorem State.withA_cc (s : State) (v : Byte) : (s.withA v).cpu.cc = s.cpu.cc := rfl
@[simp] theorem State.withA_vb (s : State) (v : Byte) : (s.withA v).cpu.vb = s.cpu.vb := rfl
@[simp] theorem State.withA_events (s : State) (v : Byte) : (s.withA v).events = s.events := rfl

@[simp] theorem State.withZ_mem (s : State) (b : Bool) : (s.withZ b).cpu.mem = s.cpu.mem := rfl
@[simp] theorem State.withZ_a (s : State) (b : Bool) : (s.withZ b).cpu.a = s.cpu.a := rfl
@[simp] theorem State.withZ_z (s : State) (b : Bool) : (s.withZ b).cpu.z = b := rfl
@[simp] theorem State.withZ_pc (s : State) (b : Bool) : (s.withZ b).cpu.pc = s.cpu.pc := rfl
@[simp] theorem State.withZ_sp (s : State) (b : Bool) : (s.withZ b).cpu.sp = s.cpu.sp := rfl
@[simp] theorem State.withZ_run (s : State) (b : Bool) : (s.withZ b).cpu.run = s.cpu.run := rfl
@[simp] theorem State.withZ_cc (s : State) (b : Bool) : (s.withZ b).cpu.cc = s.cpu.cc := rfl
@[simp] theorem State.withZ_vb (s : State) (b : Bool) : (s.withZ b).cpu.vb = s.cpu.vb := rfl
@[simp] theorem State.withZ_events (s : State) (b : Bool) : (s.withZ b).events = s.events := rfl

@[simp] theorem State.withPc_mem (s : State) (v : Addr) : (s.withPc v).cpu.mem = s.cpu.mem := rfl
@[simp] theorem State.withPc_a (s : State) (v : Addr) : (s.withPc v).cpu.a = s.cpu.a := rfl
@[simp] theorem State.withPc_z (s : State) (v : Addr) : (s.withPc v).cpu.z = s.cpu.z := rfl
@[simp] theorem State.withPc_pc (s : State) (v : Addr) : (s.withPc v).cpu.pc = v := rfl
@[simp] theorem State.withPc_sp (s : State) (v : Addr) : (s.withPc v).cpu.sp = s.cpu.sp := rfl
@[simp] theorem State.withPc_run (s : State) (v : Addr) : (s.withPc v).cpu.run = s.cpu.run := rfl
@[simp] theorem State.withPc_cc (s : State) (v : Addr) : (s.withPc v).cpu.cc = s.cpu.cc := rfl
@[simp] theorem State.withPc_vb (s : State) (v : Addr) : (s.withPc v).cpu.vb = s.cpu.vb := rfl
@[simp] theorem State.withPc_events (s : State) (v : Addr) : (s.withPc v).events = s.events := rfl

@[simp] theorem State.withSp_mem (s : State) (v : Addr) : (s.withSp v).cpu.mem = s.cpu.mem := rfl
@[simp] theorem State.withSp_a (s : State) (v : Addr) : (s.withSp v).cpu.a = s.cpu.a := rfl
@[simp] theorem State.withSp_z (s : State) (v : Addr) : (s.withSp v).cpu.z = s.cpu.z := rfl
@[simp] theorem State.withSp_pc (s : State) (v : Addr) : (s.withSp v).cpu.pc = s.cpu.pc := rfl
@[simp] theorem State.withSp_sp (s : State) (v : Addr) : (s.withSp v).cpu.sp = v := rfl
@[simp] theorem State.withSp_run (s : State) (v : Addr) : (s.withSp v).cpu.run = s.cpu.run := rfl
@[simp] theorem State.withSp_cc (s : State) (v : Addr) : (s.withSp v).cpu.cc = s.cpu.cc := rfl
@[simp] theorem State.withSp_vb (s : State) (v : Addr) : (s.withSp v).cpu.vb = s.cpu.vb := rfl
@[simp] theorem State.withSp_events (s : State) (v : Addr) : (s.withSp v).events = s.events := rfl

@[simp] theorem State.withRun_mem (s : State) (b : Bool) : (s.withRun b).cpu.mem = s.cpu.mem := rfl
@[simp] theorem State.withRun_a (s : State) (b : Bool) : (s.withRun b).cpu.a = s.cpu.a := rfl
@[simp] theorem State.withRun_z (s : State) (b : Bool) : (s.withRun b).cpu.z = s.cpu.z := rfl
@[simp] theorem State.withRun_pc (s : State) (b : Bool) : (s.withRun b).cpu.pc = s.cpu.pc := rfl
@[simp] theorem State.withRun_sp (s : State) (b : Bool) : (s.withRun b).cpu.sp = s.cpu.sp := rfl
@[simp] theorem State.withRun_run (s : State) (b : Bool) : (s.withRun b).cpu.run = b := rfl
@[simp] theorem State.withRun_cc (s : State) (b : Bool) : (s.withRun b).cpu.cc = s.cpu.cc := rfl
@[simp] theorem State.withRun_vb (s : State) (b : Bool) : (s.withRun b).cpu.vb = s.cpu.vb := rfl
@[simp] theorem State.withRun_events (s : State) (b : Bool) : (s.withRun b).events = s.events := rfl

@[simp] theorem State.withCc_mem (s : State) (n : Nat) : (s.withCc n).cpu.mem = s.cpu.mem := rfl
@[simp] theorem State.withCc_a (s : State) (n : Nat) : (s.withCc n).cpu.a = s.cpu.a := rfl
@[simp] theorem State.withCc_z (s : State) (n : Nat) : (s.withCc n).cpu.z = s.cpu.z := rfl
@[simp] theorem State.withCc_pc (s : State) (n : Nat) : (s.withCc n).cpu.pc = s.cpu.pc := rfl
@[simp] theorem State.withCc_sp (s : State) (n : Nat) : (s.withCc n).cpu.sp = s.cpu.sp := rfl
@[simp] theorem State.withCc_run (s : State) (n : Nat) : (s.withCc n).cpu.run = s.cpu.run := rfl
@[simp] theorem State.withCc_cc (s : State) (n : Nat) : (s.withCc n).cpu.cc = n := rfl
@[simp] theorem State.withCc_vb (s : State) (n : Nat) : (s.withCc n).cpu.vb = s.cpu.vb := rfl
@[simp] theorem State.withCc_events (s : State) (n : Nat) : (s.withCc n).events = s.events := rfl

@[simp] theorem State.withVb_mem (s : State) (b : Bool) : (s.withVb b).cpu.mem = s.cpu.mem := rfl
@[simp] theorem State.withVb_a (s : State) (b : Bool) : (s.withVb b).cpu.a = s.cpu.a := rfl
@[simp] theorem State.withVb_z (s : State) (b : Bool) : (s.withVb b).cpu.z = s.cpu.z := rfl
@[simp] theorem State.withVb_pc (s : State) (b : Bool) : (s.withVb b).cpu.pc = s.cpu.pc := rfl
@[simp] theorem State.withVb_sp (s : State) (b : Bool) : (s.withVb b).cpu.sp = s.cpu.sp := rfl
@[simp] theorem State.withVb_run (s : State) (b : Bool) : (s.withVb b).cpu.run = s.cpu.run := rfl
@[simp] theorem State.withVb_cc (s : State) (b : Bool) : (s.withVb b).cpu.cc = s.cpu.cc := rfl
@[simp] theorem State.withVb_vb (s : State) (b : Bool) : (s.withVb b).cpu.vb = b := rfl
@[simp] theorem State.withVb_events (s : State) (b : Bool) : (s.withVb b).events = s.events := rfl

@[simp] theorem State.withEvents_mem (s : State) (es : List Event) : (s.withEvents es).cpu.mem = s.cpu.mem := rfl
@[simp] theorem State.withEvents_a (s : State) (es : List Event) : (s.withEvents es).cpu.a = s.cpu.a := rfl
@[simp] theorem State.withEvents_z (s : State) (es : List Event) : (s.withEvents es).cpu.z = s.cpu.z := rfl
@[simp] theorem State.withEvents_pc (s : State) (es : List Event) : (s.withEvents es).cpu.pc = s.cpu.pc := rfl
@[simp] theorem State.withEvents_sp (s : State) (es : List Event) : (s.withEvents es).cpu.sp = s.cpu.sp := rfl
@[simp] theorem State.withEvents_run (s : State) (es : List Event) : (s.withEvents es).cpu.run = s.cpu.run := rfl
@[simp] theorem State.withEvents_cc (s : State) (es : List Event) : (s.withEvents es).cpu.cc = s.cpu.cc := rfl
@[simp] theorem State.withEvents_vb (s : State) (es : List Event) : (s.withEvents es).cpu.vb = s.cpu.vb := rfl
@[simp] theorem State.withEvents_events (s : State) (es : List Event) : (s.withEvents es).events = es := rfl

/-- Two states are equal when the nine items are. -/
theorem State.ext_items {s t : State} (mem : s.cpu.mem = t.cpu.mem) (a : s.cpu.a = t.cpu.a)
    (z : s.cpu.z = t.cpu.z) (pc : s.cpu.pc = t.cpu.pc) (sp : s.cpu.sp = t.cpu.sp)
    (run : s.cpu.run = t.cpu.run) (cc : s.cpu.cc = t.cpu.cc) (vb : s.cpu.vb = t.cpu.vb)
    (events : s.events = t.events) : s = t := by
  obtain ⟨⟨_, _, _, _, _, _, _, _⟩, _⟩ := s
  obtain ⟨⟨_, _, _, _, _, _, _, _⟩, _⟩ := t
  simp only at mem a z pc sp run cc vb events
  subst mem a z pc sp run cc vb events
  rfl

end Sys2Proof.Machine
end

