-- ==== Sys2Proof/Laws/Ops.lean ====
section
/-! SUPPORT. What each shared operation does, said once: callers cite these and unfold no operation. -/

namespace Sys2Proof.Machine

/-! The flags and the addresses, in numbers. -/

theorem zeroFlag_eq (v : Byte) : zeroFlag v = decide (v.toNat = 0) := by
  simp [zeroFlag, beq_eq_decide, ← BitVec.toNat_inj]

theorem compareFlag_eq (a m : Byte) : compareFlag a m = decide (a.toNat = m.toNat) := by
  simp [compareFlag, beq_eq_decide, ← BitVec.toNat_inj]

theorem vblankFlag_eq (n : Nat) : vblankFlag n = decide (n % 64 < 8) := rfl

theorem nextPc_toNat (s : State) : (nextPc s).toNat = (s.cpu.pc.toNat + 2) % 256 := by
  simp [nextPc, Config.insnLen, BitVec.toNat_add]

theorem popAddr_toNat (s : State) : (popAddr s).toNat = (s.cpu.sp.toNat + 1) % 256 := by
  simp [popAddr, BitVec.toNat_add]

theorem spAfterPush_toNat (s : State) : (spAfterPush s).toNat = (s.cpu.sp.toNat + 255) % 256 := by
  simp [spAfterPush, BitVec.toNat_sub]; omega

theorem isVram_iff (b : Addr) : isVram b = true ↔ 0xE0 ≤ b.toNat := by
  have := b.isLt
  simp [isVram, Config.vramBase, Config.vramLast, BitVec.ule]
  omega

/-! Reading and writing bytes. -/

@[simp] theorem readByte_memWrite (b c : Addr) (v : Byte) (s : State) :
    readByte (memWrite b v s) c = if c = b then v else readByte s c := by
  simp [readByte, memWrite]

/-- A read depends on memory alone. -/
theorem readByte_congr {s t : State} (h : s.cpu.mem = t.cpu.mem) (b : Addr) : readByte s b = readByte t b := by
  rw [readByte, readByte, h]

theorem memWrite_wf {s : State} (b : Addr) (v : Byte) (h : s.cpu.mem.wf = true) :
    (memWrite b v s).cpu.mem.wf = true := Memory.wf_write b v h

theorem memWrite_frame (b : Addr) (v : Byte) (s : State) :
    ∃ m, memWrite b v s = s.withMem m ∧ ∀ c, c ≠ b → Memory.read m c = readByte s c :=
  ⟨_, rfl, fun c h => by simp [readByte, h]⟩

/-! The epilogue: everything it does. -/

@[simp] theorem epilogue_mem (s : State) : (epilogue s).cpu.mem = s.cpu.mem := rfl
@[simp] theorem epilogue_a (s : State) : (epilogue s).cpu.a = s.cpu.a := rfl
@[simp] theorem epilogue_z (s : State) : (epilogue s).cpu.z = s.cpu.z := rfl
@[simp] theorem epilogue_pc (s : State) : (epilogue s).cpu.pc = nextPc s := rfl
@[simp] theorem epilogue_sp (s : State) : (epilogue s).cpu.sp = s.cpu.sp := rfl
@[simp] theorem epilogue_run (s : State) : (epilogue s).cpu.run = s.cpu.run := rfl
@[simp] theorem epilogue_cc (s : State) : (epilogue s).cpu.cc = s.cpu.cc + 1 := rfl
@[simp] theorem epilogue_vb (s : State) : (epilogue s).cpu.vb = decide ((s.cpu.cc + 1) % 64 < 8) := rfl
@[simp] theorem epilogue_events (s : State) : (epilogue s).events = s.events := rfl

/-! The accumulator's setters. -/

theorem setA_eq (v : Byte) (s : State) : setA v s = (s.withA v).withZ (decide (v.toNat = 0)) := by
  rw [setA, zeroFlag_eq]

theorem loadA_true (v : Byte) (s : State) : loadA true v s = setA v s := rfl
theorem loadA_false (v : Byte) (s : State) : loadA false v s = s.withA v := rfl

/-! The gate: a store lands, or it is denied and reported, and nothing else happens. -/

/-- Outside the region, or while the window is open, the gated write is the plain write (R126). -/
theorem storeGated_lands {b : Addr} {s : State} (v : Byte) (h : ¬ (0xE0 ≤ b.toNat ∧ s.cpu.vb = false)) :
    storeGated b v s = memWrite b v s := by
  rw [storeGated, if_neg]
  simpa [← isVram_iff] using h

/-- In the region while the window is closed, only the event happens (R126, R128). -/
theorem storeGated_denied {b : Addr} {s : State} (v : Byte) (hb : 0xE0 ≤ b.toNat) (hv : s.cpu.vb = false) :
    storeGated b v s = emit (.vramWriteDenied b) s := by
  rw [storeGated, if_pos]
  simp [(isVram_iff b).mpr hb, hv]

/-- Everything a gated write can do. -/
theorem storeGated_cases (b : Addr) (v : Byte) (s : State) :
    (¬ (0xE0 ≤ b.toNat ∧ s.cpu.vb = false) ∧ storeGated b v s = memWrite b v s) ∨
    (0xE0 ≤ b.toNat ∧ s.cpu.vb = false ∧ storeGated b v s = emit (.vramWriteDenied b) s) := by
  by_cases h : 0xE0 ≤ b.toNat ∧ s.cpu.vb = false
  · exact .inr ⟨h.1, h.2, storeGated_denied v h.1 h.2⟩
  · exact .inl ⟨h, storeGated_lands v h⟩

/-! The push form with its switch at the decided value, and the pop form. -/

/-- The ungated push: the plain write at `SP`, then the decrement (R15, R127). -/
theorem pushByte_ungated (v : Byte) (s : State) :
    pushByte Config.gateStackWrites v s = (memWrite s.cpu.sp v s).withSp (spAfterPush s) := rfl

theorem popSp_eq (s : State) : popSp s = s.withSp (popAddr s) := rfl

theorem popped_eq (s : State) : popped s = readByte s (popAddr s) := rfl

/-! Events and the exception. -/

@[simp] theorem emit_cpu (e : Event) (s : State) : (emit e s).cpu = s.cpu := rfl
@[simp] theorem emit_events (e : Event) (s : State) : (emit e s).events = s.events ++ [e] := rfl

/-- Taking the exception: `RUN` false and one event, nothing saved and nothing moved (R144). -/
theorem raiseIllegalOpcode_eq (op : Byte) (b : Addr) (s : State) :
    raiseIllegalOpcode op b s = (s.withRun false).withEvents (s.events ++ [.illegalOpcode op b]) := rfl

/-! Fetch. -/

theorem fetchInstr_eq (s : State) :
    fetchInstr s = decodePair (readByte s s.cpu.pc) (readByte s (s.cpu.pc + 1)) := rfl

theorem decode_fetchBytes (s : State) : decode (fetchBytes s) = .ok (fetchInstr s, []) := rfl

end Sys2Proof.Machine
end

