-- ==== Sys2Proof/Laws/PerInstr.lean ====
section
/-! SUPPORT. Statements made for every instruction, one lemma per constructor (LAWS.json). -/

namespace Sys2Proof.Laws.RoundTrip

/-- An instruction is what its own two bytes decode to. -/
def Statement (i : Instr) : Prop :=
  i.WellFormed → ∃ op x, encode i = [op, x] ∧ decodePair op x = i

theorem nop (x : Byte) : Statement (.nop x) := fun _ => ⟨_, _, rfl, rfl⟩
theorem load (x : Addr) : Statement (.load x) := fun _ => ⟨_, _, rfl, rfl⟩
theorem store (x : Addr) : Statement (.store x) := fun _ => ⟨_, _, rfl, rfl⟩
theorem add (x : Addr) : Statement (.add x) := fun _ => ⟨_, _, rfl, rfl⟩
theorem sub (x : Addr) : Statement (.sub x) := fun _ => ⟨_, _, rfl, rfl⟩
theorem cmp (x : Addr) : Statement (.cmp x) := fun _ => ⟨_, _, rfl, rfl⟩
theorem inc (x : Byte) : Statement (.inc x) := fun _ => ⟨_, _, rfl, rfl⟩
theorem dec (x : Byte) : Statement (.dec x) := fun _ => ⟨_, _, rfl, rfl⟩
theorem jmp (x : Addr) : Statement (.jmp x) := fun _ => ⟨_, _, rfl, rfl⟩
theorem jz (x : Addr) : Statement (.jz x) := fun _ => ⟨_, _, rfl, rfl⟩
theorem jnz (x : Addr) : Statement (.jnz x) := fun _ => ⟨_, _, rfl, rfl⟩
theorem call (x : Addr) : Statement (.call x) := fun _ => ⟨_, _, rfl, rfl⟩
theorem ret (x : Byte) : Statement (.ret x) := fun _ => ⟨_, _, rfl, rfl⟩
theorem out (x : Addr) : Statement (.out x) := fun _ => ⟨_, _, rfl, rfl⟩
theorem push (x : Byte) : Statement (.push x) := fun _ => ⟨_, _, rfl, rfl⟩
theorem pop (x : Byte) : Statement (.pop x) := fun _ => ⟨_, _, rfl, rfl⟩
theorem halt (x : Byte) : Statement (.halt x) := fun _ => ⟨_, _, rfl, rfl⟩
theorem invalid (op x : Byte) : Statement (.invalid op x) := fun h => ⟨op, x, rfl, decodePair_invalid h x⟩

end Sys2Proof.Laws.RoundTrip
end

