-- ==== Sys2Proof/Laws/Step.lean ====
section
/-! SUPPORT. What a step can do, said once, and how runs unfold. -/

namespace Sys2Proof.Machine

/-- A halted machine's step is the state as it was (R65). -/
theorem step_halted {s : State} (h : s.cpu.run = false) : step s = .next s := by
  rw [step, if_neg (by simp [h])]
  rfl

/-- A running machine's step executes what it fetched (R66). -/
theorem step_running {s : State} (h : s.cpu.run = true) : step s = exec (fetchInstr s) s := by
  rw [step, if_pos h]

/-- Everything a step can be: nothing while halted, and otherwise the instruction that the two bytes at `PC`
select. -/
theorem step_cases (s : State) :
    (s.cpu.run = false ∧ step s = .next s) ∨
    (s.cpu.run = true ∧
      step s = exec (decodePair (readByte s s.cpu.pc) (readByte s (s.cpu.pc + 1))) s) := by
  cases h : s.cpu.run
  · exact .inl ⟨rfl, step_halted h⟩
  · exact .inr ⟨rfl, step_running h⟩

/-- The epilogue's effect as claims say it, from the program counter the instruction left (R69). -/
theorem epilogue_counted {s u : State} (h : u.cpu.cc = s.cpu.cc) : Counted u.cpu.pc s (epilogue u) :=
  ⟨by rw [epilogue_cc, h], by rw [epilogue_vb, h], nextPc_toNat u⟩

/-- A run of one step more, on any machine. -/
theorem run_succ_of_next (M : Host.Core) (n : Nat) {s t : M.State} (h : M.step s = .next t) :
    Host.Core.run M (n + 1) s = Host.Core.run M n t := by
  simp only [Host.Core.run, h]

/-- A run of one step more, when the first step answers a state. -/
theorem run_succ {s t : State} (n : Nat) (h : step s = .next t) :
    Host.Core.run Sys2Proof.core (n + 1) s = Host.Core.run Sys2Proof.core n t :=
  run_succ_of_next Sys2Proof.core n h

end Sys2Proof.Machine
end

