-- ==== Sys2Proof/Tests/Slice0.lean ====
section
/-! SUPPORT. The model's own tests. Every expected value is from spec/95_test_vectors.md (the vector's id
stands in each test's comment) or from the rule named; the words of the decode tests are written out from
spec/30_encoding.md R55. The witnesses show concrete states that meet a statement's hypotheses. -/

namespace Sys2Proof.Tests

open Sys2Proof.Machine

/-- A memory from its listed bytes. -/
def memOf (bytes : List (Addr × Byte)) : Memory := bytes.foldl (fun m p => m.write p.1 p.2) []

/-- A running state at `pc` with these bytes of memory, and otherwise as after reset. -/
def stateAt (pc : Addr) (bytes : List (Addr × Byte)) : State := State.resetWith (memOf bytes) pc 0 false

/-- The timing state machine set to a count, `VB` with it. -/
def atCount (n : Nat) (s : State) : State := (s.withCc n).withVb (decide (n % 64 < 8))

/-- The outcome is a next state and it passes the check. -/
def after (o : Host.Outcome State Fault Refusal) (check : State → Bool) : Bool :=
  match o with
  | .next t => check t
  | .fault _ => false
  | .refused _ => false

/-! ### Well-formedness: the one check, at both ends of its range (R56) -/

theorem test_wf_refuses_nop_as_invalid : (Instr.invalid 0x00 0x00).wellFormed = false := by decide
theorem test_wf_refuses_pop_as_invalid : (Instr.invalid 0x0F 0x00).wellFormed = false := by decide
theorem test_wf_refuses_halt_as_invalid : (Instr.invalid 0xFF 0x00).wellFormed = false := by decide
theorem test_wf_accepts_first_invalid : (Instr.invalid 0x10 0x00).wellFormed = true := by decide
theorem test_wf_accepts_last_invalid : (Instr.invalid 0xFE 0x00).wellFormed = true := by decide

/-! ### Decoding: one word per row of R55, bit by bit -/

theorem test_decode_nop : decode [0b00000000#8, 0xAB] = .ok (.nop 0xAB, []) := by rfl
theorem test_decode_load : decode [0b00000001#8, 0x10] = .ok (.load 0x10, []) := by rfl
theorem test_decode_store : decode [0b00000010#8, 0xFA] = .ok (.store 0xFA, []) := by rfl
theorem test_decode_add : decode [0b00000011#8, 0x20] = .ok (.add 0x20, []) := by rfl
theorem test_decode_sub : decode [0b00000100#8, 0x21] = .ok (.sub 0x21, []) := by rfl
theorem test_decode_cmp : decode [0b00000101#8, 0x22] = .ok (.cmp 0x22, []) := by rfl
theorem test_decode_inc : decode [0b00000110#8, 0xFF] = .ok (.inc 0xFF, []) := by rfl
theorem test_decode_dec : decode [0b00000111#8, 0x00] = .ok (.dec 0x00, []) := by rfl
theorem test_decode_jmp : decode [0b00001000#8, 0x30] = .ok (.jmp 0x30, []) := by rfl
theorem test_decode_jz : decode [0b00001001#8, 0x40] = .ok (.jz 0x40, []) := by rfl
theorem test_decode_jnz : decode [0b00001010#8, 0x00] = .ok (.jnz 0x00, []) := by rfl
theorem test_decode_call : decode [0b00001011#8, 0x10] = .ok (.call 0x10, []) := by rfl
theorem test_decode_ret : decode [0b00001100#8, 0x00] = .ok (.ret 0x00, []) := by rfl
theorem test_decode_out : decode [0b00001101#8, 0x11] = .ok (.out 0x11, []) := by rfl
theorem test_decode_push : decode [0b00001110#8, 0x00] = .ok (.push 0x00, []) := by rfl
theorem test_decode_pop : decode [0b00001111#8, 0x00] = .ok (.pop 0x00, []) := by rfl
theorem test_decode_halt : decode [0b11111111#8, 0x77] = .ok (.halt 0x77, []) := by rfl
theorem test_decode_invalid : decode [0b01000010#8, 0x99] = .ok (.invalid 0x42 0x99, []) := by rfl
/-- R52: the low four bits alone select nothing. -/
theorem test_decode_whole_byte : decode [0x1F, 0x00] = .ok (.invalid 0x1F 0x00, []) := by rfl
theorem test_decode_truncated : decode [0x01] = .error .truncated := by rfl
/-- The table's numbering: `iw[15:8]` is the opcode (opcode_table.json, LOAD's match 0x0100). -/
theorem test_table_word : decodeTableWord 16 0x0110 = some (.load 0x10) := by decide
theorem test_table_word_halt : decodeTableWord 16 0xFF00 = some (.halt 0x00) := by decide

/-! ### One step each -/

/-- V-SY-1. -/
theorem test_nop_closes_the_window :
    after (step (atCount 7 (stateAt 0x04 []))) (fun t => t.cpu.pc == 0x06 && t.cpu.cc == 8 && !t.cpu.vb) = true := by
  decide

/-- V-LS-2: loading zero sets `Z`. -/
theorem test_load_zero :
    after (step ((stateAt 0x00 [(0x00, 0x01), (0x01, 0x10)]).withA 0x99))
      (fun t => t.cpu.a == 0x00 && t.cpu.z && t.cpu.pc == 0x02 && t.cpu.cc == 1) = true := by decide

/-- V-LS-6: the operand of an instruction at 0xFF is at 0x00. -/
theorem test_load_straddles_the_top :
    after (step (stateAt 0xFF [(0xFF, 0x01), (0x00, 0x40), (0x40, 0x33)]))
      (fun t => t.cpu.a == 0x33 && !t.cpu.z && t.cpu.pc == 0x01) = true := by decide

/-- V-GT-2: the last open phase lands and closes the window. -/
theorem test_store_lands_in_phase_7 :
    after (step (atCount 7 ((stateAt 0x10 [(0x10, 0x02), (0x11, 0xE0)]).withA 0xAA)))
      (fun t => readByte t 0xE0 == 0xAA && t.cpu.cc == 8 && !t.cpu.vb && t.events == []) = true := by decide

/-- V-GT-4, first half: denied in phase 63, and its own epilogue opens the window. -/
theorem test_store_denied_in_phase_63 :
    after (step (atCount 63 ((stateAt 0x10 [(0x10, 0x02), (0x11, 0xE0)]).withA 0xAA)))
      (fun t => readByte t 0xE0 == 0x00 && t.cpu.vb && t.cpu.pc == 0x12 && t.events == [.vramWriteDenied 0xE0])
      = true := by decide

/-- V-GT-5: 0xDF is outside the region. -/
theorem test_store_below_the_region :
    after (step (atCount 20 ((stateAt 0x10 [(0x10, 0x02), (0x11, 0xDF)]).withA 0xAA)))
      (fun t => readByte t 0xDF == 0xAA && t.events == []) = true := by decide

/-- V-AR-2. -/
theorem test_add_wraps_to_zero :
    after (step ((stateAt 0x00 [(0x00, 0x03), (0x01, 0x20), (0x20, 0x80)]).withA 0x80))
      (fun t => t.cpu.a == 0x00 && t.cpu.z) = true := by decide

/-- V-AR-7. -/
theorem test_sub_wraps :
    after (step ((stateAt 0x00 [(0x00, 0x04), (0x01, 0x20), (0x20, 0x07)]).withA 0x05))
      (fun t => t.cpu.a == 0xFE && !t.cpu.z) = true := by decide

/-- V-AR-12 and V-AR-13: `Z` is equality with the cell, not with zero. -/
theorem test_cmp_unequal :
    after (step ((stateAt 0x00 [(0x00, 0x05), (0x01, 0x20), (0x20, 0x01)]).withZ true))
      (fun t => t.cpu.a == 0x00 && !t.cpu.z) = true := by decide
theorem test_cmp_equal :
    after (step ((stateAt 0x00 [(0x00, 0x05), (0x01, 0x20), (0x20, 0x07)]).withA 0x07))
      (fun t => t.cpu.a == 0x07 && t.cpu.z) = true := by decide

/-- V-AR-15. -/
theorem test_inc_wraps :
    after (step ((stateAt 0x00 [(0x00, 0x06)]).withA 0xFF)) (fun t => t.cpu.a == 0x00 && t.cpu.z) = true := by decide

/-- V-AR-18. -/
theorem test_dec_wraps :
    after (step (stateAt 0x00 [(0x00, 0x07)])) (fun t => t.cpu.a == 0xFF && !t.cpu.z) = true := by decide

/-- V-CT-1. -/
theorem test_jmp_is_not_counted :
    after (step (atCount 3 (stateAt 0x06 [(0x06, 0x08)])))
      (fun t => t.cpu.pc == 0x00 && t.cpu.cc == 3 && t.cpu.vb) = true := by decide

/-- V-CT-2 and V-CT-3. -/
theorem test_jz_taken :
    after (step (atCount 5 ((stateAt 0x0A [(0x0A, 0x09), (0x0B, 0x40)]).withZ true)))
      (fun t => t.cpu.pc == 0x40 && t.cpu.cc == 5) = true := by decide
theorem test_jz_not_taken :
    after (step (atCount 5 (stateAt 0x0A [(0x0A, 0x09), (0x0B, 0x40)])))
      (fun t => t.cpu.pc == 0x0C && t.cpu.cc == 6 && t.cpu.vb) = true := by decide

/-- V-CT-19 and V-CT-5. -/
theorem test_jnz_taken :
    after (step (atCount 7 (stateAt 0x06 [(0x06, 0x0A)])))
      (fun t => t.cpu.pc == 0x00 && t.cpu.cc == 7 && t.cpu.vb) = true := by decide
theorem test_jnz_not_taken :
    after (step (atCount 9 ((stateAt 0x06 [(0x06, 0x0A)]).withZ true)))
      (fun t => t.cpu.pc == 0x08 && t.cpu.cc == 10 && !t.cpu.vb) = true := by decide

/-- V-CT-11: the push wraps `SP` down, and is not counted. -/
theorem test_call_wraps_sp :
    after (step ((stateAt 0x20 [(0x20, 0x0B), (0x21, 0x40)]).withSp 0x00))
      (fun t => readByte t 0x00 == 0x22 && t.cpu.sp == 0xFF && t.cpu.pc == 0x40 && t.cpu.cc == 0) = true := by decide

/-- V-CT-18: the fetch is latched before the write. -/
theorem test_call_over_itself :
    after (step (stateAt 0x5F [(0x5F, 0x0B), (0x60, 0x10)]))
      (fun t => readByte t 0x5F == 0x61 && t.cpu.sp == 0x5E && t.cpu.pc == 0x10) = true := by decide

/-- V-CT-6 and V-CT-14. -/
theorem test_ret_resumes_two_past :
    after (step (atCount 1 ((stateAt 0x12 [(0x12, 0x0C), (0x5F, 0x02)]).withSp 0x5E)))
      (fun t => t.cpu.pc == 0x04 && t.cpu.sp == 0x5F && t.cpu.cc == 2 && readByte t 0x5F == 0x02) = true := by decide
theorem test_ret_wraps_sp :
    after (step ((stateAt 0x30 [(0x30, 0x0C), (0x00, 0x20)]).withSp 0xFF))
      (fun t => t.cpu.pc == 0x22 && t.cpu.sp == 0x00) = true := by decide

/-- V-SY-4: the read is not gated. -/
theorem test_out_reports_memory :
    after (step (atCount 30 (stateAt 0x06 [(0x06, 0x0D), (0x07, 0xF0), (0xF0, 0x81)])))
      (fun t => t.events == [.out 0xF0 0x81] && t.cpu.pc == 0x08 && t.cpu.cc == 31) = true := by decide

/-- V-ST-1 and V-GT-6. -/
theorem test_push_writes_then_decrements :
    after (step (((stateAt 0x00 [(0x00, 0x0E)]).withA 0x2A).withZ true))
      (fun t => readByte t 0x5F == 0x2A && t.cpu.sp == 0x5E && t.cpu.z && t.cpu.cc == 1) = true := by decide
theorem test_push_is_not_gated :
    after (step (atCount 20 (((stateAt 0x10 [(0x10, 0x0E)]).withA 0xAA).withSp 0xF0)))
      (fun t => readByte t 0xF0 == 0xAA && t.cpu.sp == 0xEF && t.events == []) = true := by decide

/-- V-ST-4 and V-ST-6. -/
theorem test_pop_recomputes_z :
    after (step (((stateAt 0x02 [(0x02, 0x0F)]).withA 0x09).withSp 0x5E))
      (fun t => t.cpu.sp == 0x5F && t.cpu.a == 0x00 && t.cpu.z) = true := by decide
theorem test_pop_wraps_sp :
    after (step ((stateAt 0x02 [(0x02, 0x0F), (0x00, 0x77)]).withSp 0xFF))
      (fun t => t.cpu.sp == 0x00 && t.cpu.a == 0x77 && !t.cpu.z) = true := by decide

/-- V-SY-6. -/
theorem test_halt_changes_only_run :
    after (step (atCount 2 (stateAt 0x04 [(0x04, 0xFF), (0x05, 0x77)])))
      (fun t => t == (atCount 2 (stateAt 0x04 [(0x04, 0xFF), (0x05, 0x77)])).withRun false) = true := by decide

/-- V-SY-8. -/
theorem test_invalid_reports_opcode_and_address :
    after (step (stateAt 0x20 [(0x20, 0x42), (0x21, 0x99)]))
      (fun t => !t.cpu.run && t.cpu.pc == 0x20 && t.cpu.cc == 0 && t.events == [.illegalOpcode 0x42 0x20]) = true := by
  decide

/-- V-SY-7. -/
theorem test_halted_step_is_nothing :
    after (step ((stateAt 0x04 []).withRun false)) (fun t => t == (stateAt 0x04 []).withRun false) = true := by decide

/-- The word placed at the fetch is what runs first after reset. -/
theorem test_fetch_word :
    after (step (State.reset.withFetchWord 16 0x0601)) (fun t => t.cpu.a == 0x01 && t.cpu.pc == 0x02) = true := by decide

/-! ### The host's side -/

/-- The container example of 95_test_vectors.md: scenario A with its data cell. -/
def scenarioA : List Byte :=
  [0x54, 0x34, 0x43, 0x01, 0x00, 0x00, 0x11, 0x00] ++
  [0x01, 0x10, 0x02, 0x11, 0xFF, 0x00, 0x00, 0x00, 0x00, 0x00, 0x00, 0x00, 0x00, 0x00, 0x00, 0x00, 0x05]

theorem test_load_container :
    (readByte (loadFile scenarioA State.reset).1 0x10 == 0x05 &&
      readByte (loadFile scenarioA State.reset).1 0x03 == 0x11 &&
      (loadFile scenarioA State.reset).2 == .loaded false) = true := by decide

/-- R178: a file one byte short is refused. -/
theorem test_short_image_refused :
    (loadFile (scenarioA.take 24) State.reset).2 = .rejected .shortImage := by decide

/-- R178: an image that passes 0xFF is refused. -/
theorem test_image_past_top_refused :
    (loadFile [0x54, 0x34, 0x43, 0x00, 0xFF, 0x00, 0x02, 0x00, 0x01, 0x02] State.reset).2 =
      .rejected .imagePastTop := by decide

/-- R46: column 0 of row 1 is bit 0 of `M[0xE2]`, column 15 is bit 7 of `M[0xE3]`. -/
theorem test_pixel_rows :
    (pixel (memOf [(0xE2, 0x01), (0xE3, 0x80)]) 0 1 && pixel (memOf [(0xE2, 0x01), (0xE3, 0x80)]) 15 1 &&
      !pixel (memOf [(0xE2, 0x01), (0xE3, 0x80)]) 7 1) = true := by decide

/-- R59: the scenarios' syntax. -/
theorem test_asm_load : asmText (.load 0x1F) = ['L', 'O', 'A', 'D', ' ', '0', 'x', '1', 'F'] := by decide
theorem test_asm_inc : asmText (.inc 0x00) = ['I', 'N', 'C'] := by decide

/-! ### Witnesses: states and operands that meet the statements' hypotheses together -/

theorem witness_invalid_opcode_first : 0x10 ≤ (0x10 : Byte).toNat ∧ (0x10 : Byte).toNat ≤ 0xFE := by decide
theorem witness_invalid_opcode_last : 0x10 ≤ (0xFE : Byte).toNat ∧ (0xFE : Byte).toNat ≤ 0xFE := by decide
theorem witness_round_trip : (Instr.invalid 0xFE 0x00).WellFormed ∧ (Instr.load 0xFF).WellFormed := by decide

/-- RunningStepExecutesTheDecodedInstruction, at the top of memory. -/
theorem witness_running_step :
    ∃ (s : State) (p q : Addr) (i : Instr), s.cpu.run = true ∧ p.toNat = s.cpu.pc.toNat ∧
      q.toNat = (s.cpu.pc.toNat + 1) % 256 ∧ decode [readByte s p, readByte s q] = .ok (i, []) :=
  ⟨stateAt 0xFF [(0xFF, 0x01), (0x00, 0x40)], 0xFF, 0x00, .load 0x40, rfl, rfl, rfl, rfl⟩

theorem witness_halted : (State.reset.withRun false).cpu.run = false := rfl
theorem witness_reset_memory : (memOf [(0x10, 0x05), (0x00, 0x01)]).wf = true := by decide
theorem witness_reset_inv : State.reset.Inv := ⟨rfl, rfl, rfl⟩

/-- EveryStepKeepsTheInvariant. -/
theorem witness_step_from_inv : ∃ s t : State, s.Inv ∧ step s = .next t ∧ t.cpu.run = false :=
  ⟨stateAt 0x20 [(0x20, 0x42)], _, ⟨rfl, rfl, rfl⟩, rfl, rfl⟩

/-- HostWritesAndLoaderKeepTheInvariant, HostWritesOnlyWhatItNames. -/
theorem witness_host_write : ∃ (s t : State), s.Inv ∧ s.cpu.run = true ∧ hostWrite (.mem 0xF0 0x01) s = some t :=
  ⟨State.reset, _, ⟨rfl, rfl, rfl⟩, rfl, rfl⟩

/-- CanonicalMemoryIsUnique, on memories reached by different writes. -/
theorem witness_canonical :
    (memOf [(0x10, 0x05), (0x00, 0x01)]).wf = true ∧ (memOf [(0x00, 0x01), (0x10, 0x05)]).wf = true ∧
      ∀ b : Addr, (memOf [(0x10, 0x05), (0x00, 0x01)]).read b = (memOf [(0x00, 0x01), (0x10, 0x05)]).read b := by
  refine ⟨by decide, by decide, fun b => rfl⟩

/-- JzJumpsExactlyWhenZIsTrue, JnzJumpsExactlyWhenZIsFalse: both clauses. -/
theorem witness_both_flags : (State.reset.withZ true).cpu.z = true ∧ State.reset.cpu.z = false := ⟨rfl, rfl⟩

/-- CounterCountsExactlyTheFallThroughSteps, OnlyTheListedInstructionsWriteAZSp, StepEmitsExactlyTheseEvents: the two
fetched bytes, at the edges of the counted ranges (0x07, 0x08, 0x0C, 0x0F), and an instruction that writes neither
`A` nor `Z`. -/
theorem witness_fetched_bytes :
    (∀ op ∈ [(0x07 : Byte), 0x08, 0x0C, 0x0F], op = readByte (stateAt 0x00 [(0x00, op), (0x01, 0x40)]) 0x00 ∧
      (0x40 : Byte) = readByte (stateAt 0x00 [(0x00, op), (0x01, 0x40)]) 0x01) ∧
      (0x08 : Nat) ∉ [0x01, 0x03, 0x04, 0x05, 0x06, 0x07, 0x0F] := by decide

/-- ClosedWindowProtectsTheFramebuffer, with a PUSH at the last `SP` below the region. -/
theorem witness_closed_window :
    ∃ s : State, s.cpu.vb = false ∧ s.cpu.run = true ∧ (readByte s s.cpu.pc).toNat = 0x0E ∧ s.cpu.sp.toNat < 0xE0 :=
  ⟨(atCount 8 (stateAt 0x10 [(0x10, 0x0E)])).withSp 0xDF, by decide⟩

/-- OnlyTheStoreAddressChanges: an address that neither clause excludes, beside one that each does. -/
theorem witness_other_address :
    (readByte (stateAt 0x00 [(0x00, 0x02), (0x01, 0x30)]) 0x01 = (0x30 : Byte)) ∧ (0x31 : Addr) ≠ 0x30 ∧
      pushAddr (stateAt 0x00 [(0x00, 0x0E)]) ≠ (0x5E : Addr) := by decide

/-- StreamTellsTheHaltsApart: one state for each clause. -/
theorem witness_stream_running : (stateAt 0x00 []).Inv ∧ (readByte (stateAt 0x00 []) 0x00).toNat < 0x10 :=
  ⟨⟨rfl, rfl, rfl⟩, by decide⟩
theorem witness_stream_clean :
    (stateAt 0x00 [(0x00, 0xFF)]).Inv ∧ (readByte (stateAt 0x00 [(0x00, 0xFF)]) 0x00).toNat = 0xFF :=
  ⟨⟨rfl, rfl, rfl⟩, by decide⟩
theorem witness_stream_illegal :
    (stateAt 0x00 [(0x00, 0xFE)]).Inv ∧ 0x10 ≤ (readByte (stateAt 0x00 [(0x00, 0xFE)]) 0x00).toNat ∧
      (readByte (stateAt 0x00 [(0x00, 0xFE)]) 0x00).toNat < 0xFF :=
  ⟨⟨rfl, rfl, rfl⟩, by decide⟩

/-- OnlyThePhaseOfTheCounterMatters: V-TM-7. -/
theorem witness_phase : 69 % 64 = (atCount 5 State.reset).cpu.cc % 64 := by decide

/-- StepReadsOnlyTheListedBytes: a LOAD, and a POP, in two memories that differ elsewhere. -/
theorem witness_reads_load :
    ∃ (s : State) (m : Memory), readByte s s.cpu.pc = 0x01 ∧ m.read s.cpu.pc = readByte s s.cpu.pc ∧
      m.read (s.cpu.pc + 1) = readByte s (s.cpu.pc + 1) ∧ m.read 0x40 = readByte s 0x40 ∧
      readByte s (s.cpu.pc + 1) = 0x40 ∧ m.read 0x50 ≠ readByte s 0x50 :=
  ⟨stateAt 0x00 [(0x00, 0x01), (0x01, 0x40), (0x40, 0x33)],
    memOf [(0x00, 0x01), (0x01, 0x40), (0x40, 0x33), (0x50, 0x01)], by decide⟩
theorem witness_reads_pop :
    ∃ (s : State) (m : Memory), readByte s s.cpu.pc = 0x0F ∧ m.read s.cpu.pc = readByte s s.cpu.pc ∧
      m.read (s.cpu.pc + 1) = readByte s (s.cpu.pc + 1) ∧
      m.read (s.cpu.sp + 1) = readByte s (s.cpu.sp + 1) ∧ m.read 0x50 ≠ readByte s 0x50 :=
  ⟨stateAt 0x00 [(0x00, 0x0F)], memOf [(0x00, 0x0F), (0x50, 0x01)], by decide⟩

/-- PushThenPopRestoresAAndSp and RetOfACallSkipsOneInstruction: a state between that differs elsewhere. -/
theorem witness_between_push_and_pop :
    ∃ s t u : State, exec (.push 0x00) s = .next t ∧ u.cpu.sp = t.cpu.sp ∧
      readByte u s.cpu.sp = readByte t s.cpu.sp ∧ u.cpu.a ≠ t.cpu.a :=
  ⟨State.reset.withA 0x2A, _, (epilogue (pushByte false 0x2A (State.reset.withA 0x2A))).withA 0x07, rfl, rfl, rfl,
    by decide⟩
theorem witness_between_call_and_ret :
    ∃ s t u : State, exec (.call 0x10) s = .next t ∧ u.cpu.sp = t.cpu.sp ∧
      readByte u s.cpu.sp = readByte t s.cpu.sp ∧ u.cpu.a ≠ t.cpu.a :=
  ⟨State.reset, _, (jumpTo 0x10 (pushByte false 0x02 State.reset)).withA 0x07, rfl, rfl, rfl, by decide⟩

/-- StoreLandsExactlyInPhasesZeroToSeven: a state at each edge, at the region's first and last address. -/
theorem witness_store_phases :
    0xE0 ≤ (0xE0 : Addr).toNat ∧ 0xE0 ≤ (0xFF : Addr).toNat ∧
      ∀ n ∈ [0, 7, 8, 63], (atCount n State.reset).cpu.vb = decide ((atCount n State.reset).cpu.cc % 64 < 8) := by
  decide

/-- StoredOpcodeIsExecutedNext: V-LS-11. -/
theorem witness_store_over_next :
    ∃ s : State, s.cpu.run = true ∧ readByte s s.cpu.pc = 0x02 ∧ readByte s (s.cpu.pc + 1) = s.cpu.pc + 2 ∧
      ¬ (0xE0 ≤ (s.cpu.pc + 2).toNat ∧ s.cpu.vb = false) :=
  ⟨(stateAt 0x02 [(0x02, 0x02), (0x03, 0x04)]).withA 0xFF, by decide⟩

/-- BadMagicIsRejectedUnchanged: scenario D. -/
theorem witness_bad_magic :
    [0x41, 0x42, 0x43, 0x01, 0x00, 0x00, 0x06, 0x00, 0x01, 0x10].take 3 ≠ [0x54, 0x34, (0x43 : Byte)] := by decide

/-- GoodContainerIsCopiedAndEntered: an empty image at the top address and one that ends exactly at 0xFF. -/
theorem witness_good_container :
    (0x00 : Byte).toNat ≤ ([] : List Byte).length ∧ (0xFF : Byte).toNat + (0x00 : Byte).toNat ≤ 256 ∧
      (0x02 : Byte).toNat ≤ [0x01, (0x02 : Byte)].length ∧ (0xFE : Byte).toNat + (0x02 : Byte).toNat ≤ 256 := by
  decide

/-- PixelIsTheBitOfItsRowByte: the first and the last pixel. -/
theorem witness_pixel :
    (0xE0 : Addr).toNat = 0xE0 + 2 * (0 : Fin 16).val + (0 : Fin 16).val / 8 ∧
      (0xFF : Addr).toNat = 0xE0 + 2 * (15 : Fin 16).val + (15 : Fin 16).val / 8 := by decide

/-- ListingAgreesWithTheDecoder: the first and the last line of two. -/
theorem witness_listing : 0 < 2 ∧ 1 < 2 := by decide

/-- SwitchesDifferOnlyWhereTheSpecSays: a stack in the region while the window is closed, and one outside. -/
theorem witness_switches :
    (0xE0 ≤ ((atCount 8 State.reset).withSp 0xE0).cpu.sp.toNat ∧ ((atCount 8 State.reset).withSp 0xE0).cpu.vb = false) ∧
      ¬ (0xE0 ≤ (atCount 8 State.reset).cpu.sp.toNat ∧ (atCount 8 State.reset).cpu.vb = false) := by decide

end Sys2Proof.Tests
end

/-! SUPPORT. What each arm of `exec` is, said once: callers cite these and unfold no arm. -/

namespace Sys2Proof.Machine

@[simp] theorem exec_nop (x : Byte) (s : State) : exec (.nop x) s = .next (epilogue s) := rfl
@[simp] theorem exec_load (x : Addr) (s : State) :
    exec (.load x) s = .next (epilogue (setA (readByte s x) s)) := rfl
@[simp] theorem exec_store (x : Addr) (s : State) :
    exec (.store x) s = .next (epilogue (storeGated x s.cpu.a s)) := rfl
@[simp] theorem exec_add (x : Addr) (s : State) :
    exec (.add x) s = .next (epilogue (setA (s.cpu.a + readByte s x) s)) := rfl
@[simp] theorem exec_sub (x : Addr) (s : State) :
    exec (.sub x) s = .next (epilogue (setA (s.cpu.a - readByte s x) s)) := rfl
@[simp] theorem exec_cmp (x : Addr) (s : State) :
    exec (.cmp x) s = .next (epilogue (s.withZ (compareFlag s.cpu.a (readByte s x)))) := rfl
@[simp] theorem exec_inc (x : Byte) (s : State) :
    exec (.inc x) s = .next (epilogue (setA (s.cpu.a + 1) s)) := rfl
@[simp] theorem exec_dec (x : Byte) (s : State) :
    exec (.dec x) s = .next (epilogue (setA (s.cpu.a - 1) s)) := rfl
@[simp] theorem exec_jmp (x : Addr) (s : State) : exec (.jmp x) s = .next (s.withPc x) := rfl
@[simp] theorem exec_jz (x : Addr) (s : State) :
    exec (.jz x) s = .next (if s.cpu.z then s.withPc x else epilogue s) := rfl
@[simp] theorem exec_jnz (x : Addr) (s : State) :
    exec (.jnz x) s = .next (if s.cpu.z then epilogue s else s.withPc x) := rfl
@[simp] theorem exec_call (x : Addr) (s : State) :
    exec (.call x) s = .next (((memWrite s.cpu.sp (nextPc s) s).withSp (spAfterPush s)).withPc x) := rfl
@[simp] theorem exec_ret (x : Byte) (s : State) :
    exec (.ret x) s = .next (epilogue ((s.withSp (popAddr s)).withPc (readByte s (popAddr s)))) := rfl
@[simp] theorem exec_out (x : Addr) (s : State) :
    exec (.out x) s = .next (epilogue (emit (.out x (readByte s x)) s)) := rfl
@[simp] theorem exec_push (x : Byte) (s : State) :
    exec (.push x) s = .next (epilogue ((memWrite s.cpu.sp s.cpu.a s).withSp (spAfterPush s))) := rfl
@[simp] theorem exec_pop (x : Byte) (s : State) :
    exec (.pop x) s = .next (epilogue (setA (readByte s (popAddr s)) (s.withSp (popAddr s)))) := rfl
@[simp] theorem exec_halt (x : Byte) (s : State) : exec (.halt x) s = .next (s.withRun false) := rfl
@[simp] theorem exec_invalid (op x : Byte) (s : State) :
    exec (.invalid op x) s = .next (raiseIllegalOpcode op s.cpu.pc s) := rfl

end Sys2Proof.Machine

/-! SUPPORT. The invariant of 10_state.md R21, one lemma per shared operation, and then for every step. -/

namespace Sys2Proof.Machine

/-- The stream's form, as quantified statements (R73). -/
theorem State.streamOk_iff (s : State) :
    s.streamOk = true ↔ (∀ e ∈ s.events.dropLast, e.isIllegal = false) ∧
      (s.cpu.run = true → ∀ e ∈ s.events, e.isIllegal = false) := by
  cases h : s.cpu.run <;> simp [State.streamOk, h]

/-- While the machine runs, the stream's form is that no event is an `IllegalOpcode`. -/
theorem State.streamOk_iff_of_running {s : State} (hr : s.cpu.run = true) :
    s.streamOk = true ↔ ∀ e ∈ s.events, e.isIllegal = false := by
  rw [State.streamOk_iff]
  exact ⟨fun h => h.2 hr, fun h => ⟨fun e he => h e (List.mem_of_mem_dropLast he), fun _ => h⟩⟩

/-! The invariant reads memory, the counter, `VB`, `RUN` and the stream: the other four items are free. -/

@[simp] theorem inv_withA (v : Byte) (s : State) : (s.withA v).Inv ↔ s.Inv := Iff.rfl
@[simp] theorem inv_withZ (b : Bool) (s : State) : (s.withZ b).Inv ↔ s.Inv := Iff.rfl
@[simp] theorem inv_withPc (v : Addr) (s : State) : (s.withPc v).Inv ↔ s.Inv := Iff.rfl
@[simp] theorem inv_withSp (v : Addr) (s : State) : (s.withSp v).Inv ↔ s.Inv := Iff.rfl
@[simp] theorem inv_setA (v : Byte) (s : State) : (setA v s).Inv ↔ s.Inv := Iff.rfl

theorem memWrite_inv {s : State} (b : Addr) (v : Byte) (h : s.Inv) : (memWrite b v s).Inv :=
  ⟨memWrite_wf b v h.1, h.2⟩

/-- The counter and `VB` advance together, so the epilogue keeps R21 (b). -/
theorem epilogue_inv {s : State} (h : s.Inv) : (epilogue s).Inv := by
  obtain ⟨hmem, -, hev⟩ := h
  exact ⟨hmem, rfl, hev⟩

/-- A running machine may report any event that is no `IllegalOpcode`. -/
theorem emit_inv {e : Event} {s : State} (he : e.isIllegal = false) (hr : s.cpu.run = true) (h : s.Inv) :
    (emit e s).Inv := by
  obtain ⟨hmem, hvb, hev⟩ := h
  refine ⟨hmem, hvb, (State.streamOk_iff_of_running (s := emit e s) hr).mpr ?_⟩
  have hold := (State.streamOk_iff_of_running hr).mp hev
  simpa [or_imp, forall_and] using ⟨hold, he⟩

/-- Stopping only weakens what the invariant asks of the stream. -/
theorem withRun_false_inv {s : State} (h : s.Inv) : (s.withRun false).Inv := by
  obtain ⟨hmem, hvb, hev⟩ := h
  obtain ⟨hlast, -⟩ := (State.streamOk_iff s).mp hev
  exact ⟨hmem, hvb, (State.streamOk_iff _).mpr ⟨hlast, nofun⟩⟩

/-- The exception's own event is the last of the stream, and it stops the machine (R116, R73). -/
theorem raiseIllegalOpcode_inv (op : Byte) (b : Addr) {s : State} (hr : s.cpu.run = true) (h : s.Inv) :
    (raiseIllegalOpcode op b s).Inv := by
  obtain ⟨hmem, hvb, hev⟩ := h
  refine ⟨hmem, hvb, (State.streamOk_iff _).mpr ⟨?_, nofun⟩⟩
  rw [raiseIllegalOpcode_eq, State.withEvents_events, List.dropLast_concat]
  exact (State.streamOk_iff_of_running hr).mp hev

theorem storeGated_inv (b : Addr) (v : Byte) {s : State} (hr : s.cpu.run = true) (h : s.Inv) :
    (storeGated b v s).Inv := by
  rcases storeGated_cases b v s with ⟨-, lands⟩ | ⟨-, -, denied⟩
  · exact lands ▸ memWrite_inv b v h
  · exact denied ▸ emit_inv rfl hr h

/-- Every instruction of a running machine keeps the invariant. -/
theorem exec_inv (i : Instr) {s : State} (hr : s.cpu.run = true) (h : s.Inv) :
    ∃ t, exec i s = .next t ∧ t.Inv := by
  cases i with
  | nop x => exact ⟨_, exec_nop x s, epilogue_inv h⟩
  | load x => exact ⟨_, exec_load x s, epilogue_inv ((inv_setA _ s).mpr h)⟩
  | store x => exact ⟨_, exec_store x s, epilogue_inv (storeGated_inv x s.cpu.a hr h)⟩
  | add x => exact ⟨_, exec_add x s, epilogue_inv ((inv_setA _ s).mpr h)⟩
  | sub x => exact ⟨_, exec_sub x s, epilogue_inv ((inv_setA _ s).mpr h)⟩
  | cmp x => exact ⟨_, exec_cmp x s, epilogue_inv ((inv_withZ _ s).mpr h)⟩
  | inc x => exact ⟨_, exec_inc x s, epilogue_inv ((inv_setA _ s).mpr h)⟩
  | dec x => exact ⟨_, exec_dec x s, epilogue_inv ((inv_setA _ s).mpr h)⟩
  | jmp x => exact ⟨_, exec_jmp x s, (inv_withPc x s).mpr h⟩
  | jz x =>
    refine ⟨_, exec_jz x s, ?_⟩
    split
    · exact (inv_withPc x s).mpr h
    · exact epilogue_inv h
  | jnz x =>
    refine ⟨_, exec_jnz x s, ?_⟩
    split
    · exact epilogue_inv h
    · exact (inv_withPc x s).mpr h
  | call x => exact ⟨_, exec_call x s, (inv_withPc x _).mpr ((inv_withSp _ _).mpr (memWrite_inv _ _ h))⟩
  | ret x => exact ⟨_, exec_ret x s, epilogue_inv ((inv_withPc _ _).mpr ((inv_withSp _ s).mpr h))⟩
  | out x => exact ⟨_, exec_out x s, epilogue_inv (emit_inv rfl hr h)⟩
  | push x => exact ⟨_, exec_push x s, epilogue_inv ((inv_withSp _ _).mpr (memWrite_inv _ _ h))⟩
  | pop x => exact ⟨_, exec_pop x s, epilogue_inv ((inv_setA _ _).mpr ((inv_withSp _ s).mpr h))⟩
  | halt x => exact ⟨_, exec_halt x s, withRun_false_inv h⟩
  | invalid op x => exact ⟨_, exec_invalid op x s, raiseIllegalOpcode_inv op s.cpu.pc hr h⟩

/-- Settles O30: a halted step is the state as it was, and a running one is an instruction's meaning. -/
theorem everyStepKeepsTheInvariant : Obligations.EveryStepKeepsTheInvariant := by
  intro s t hs hstep
  rcases step_cases s with ⟨-, halted⟩ | ⟨hr, running⟩
  · obtain rfl : s = t := Host.Outcome.next.inj (halted.symm.trans hstep)
    exact hs
  · obtain ⟨u, hu, hinv⟩ := exec_inv _ hr hs
    obtain rfl : u = t := Host.Outcome.next.inj (hu.symm.trans (running.symm.trans hstep))
    exact hinv

end Sys2Proof.Machine

/-! SUPPORT. Which instructions write `A`, `Z` and `SP` (10_state.md R23), read off the instruction, then
off its opcode byte. -/

namespace Sys2Proof

/-- The column `A` of R23: the instructions that may change the accumulator. -/
def Instr.writesA : Instr → Bool
  | .load _ | .add _ | .sub _ | .inc _ | .dec _ | .pop _ => true
  | .nop _ | .store _ | .cmp _ | .jmp _ | .jz _ | .jnz _ | .call _ | .ret _ | .out _ | .push _ | .halt _
  | .invalid _ _ => false

/-- The column `Z` of R23: the writers of `A` (for LOAD by D1), and CMP. -/
def Instr.writesZ : Instr → Bool
  | .cmp _ => true
  | i => i.writesA

/-- The column `SP` of R23, as what is added modulo 256: 255 is one less. -/
def Instr.spShift : Instr → Nat
  | .call _ | .push _ => 255
  | .ret _ | .pop _ => 1
  | .nop _ | .load _ | .store _ | .add _ | .sub _ | .cmp _ | .inc _ | .dec _ | .jmp _ | .jz _ | .jnz _
  | .out _ | .halt _ | .invalid _ _ => 0

end Sys2Proof

namespace Sys2Proof.Machine

/-- The step from `s` to `t` wrote `A`, `Z` and `SP` as R23's columns allow the instruction to. -/
structure WritesAsListed (i : Instr) (s t : State) : Prop where
  a : i.writesA = false → t.cpu.a = s.cpu.a
  z : i.writesZ = false → t.cpu.z = s.cpu.z
  sp : t.cpu.sp.toNat = (s.cpu.sp.toNat + i.spShift) % 256

/-- An unmoved `SP`, in the form the column's shift gives it. -/
theorem sp_eq_add_zero_mod (s : State) : s.cpu.sp.toNat = (s.cpu.sp.toNat + 0) % 256 :=
  (Nat.mod_eq_of_lt s.cpu.sp.isLt).symm

/-- A gated write can change memory and the stream only. -/
theorem storeGated_frame (b : Addr) (v : Byte) (s : State) :
    ∃ m es, storeGated b v s = (s.withMem m).withEvents es := by
  rcases storeGated_cases b v s with ⟨-, lands⟩ | ⟨-, -, denied⟩
  · exact ⟨_, s.events, lands⟩
  · exact ⟨s.cpu.mem, _, denied⟩

/-- Every instruction writes as its columns list, on any state. -/
theorem exec_writesAsListed (i : Instr) (s : State) : ∃ t, exec i s = .next t ∧ WritesAsListed i s t := by
  cases i with
  | nop x => exact ⟨_, exec_nop x s, fun _ => rfl, fun _ => rfl, sp_eq_add_zero_mod s⟩
  | load x => exact ⟨_, exec_load x s, nofun, nofun, sp_eq_add_zero_mod s⟩
  | store x =>
    obtain ⟨m, es, frame⟩ := storeGated_frame x s.cpu.a s
    refine ⟨_, exec_store x s, ?_⟩
    rw [frame]
    exact ⟨fun _ => rfl, fun _ => rfl, sp_eq_add_zero_mod s⟩
  | add x => exact ⟨_, exec_add x s, nofun, nofun, sp_eq_add_zero_mod s⟩
  | sub x => exact ⟨_, exec_sub x s, nofun, nofun, sp_eq_add_zero_mod s⟩
  | cmp x => exact ⟨_, exec_cmp x s, fun _ => rfl, nofun, sp_eq_add_zero_mod s⟩
  | inc x => exact ⟨_, exec_inc x s, nofun, nofun, sp_eq_add_zero_mod s⟩
  | dec x => exact ⟨_, exec_dec x s, nofun, nofun, sp_eq_add_zero_mod s⟩
  | jmp x => exact ⟨_, exec_jmp x s, fun _ => rfl, fun _ => rfl, sp_eq_add_zero_mod s⟩
  | jz x =>
    refine ⟨_, exec_jz x s, ?_⟩
    split
    · exact ⟨fun _ => rfl, fun _ => rfl, sp_eq_add_zero_mod s⟩
    · exact ⟨fun _ => rfl, fun _ => rfl, sp_eq_add_zero_mod s⟩
  | jnz x =>
    refine ⟨_, exec_jnz x s, ?_⟩
    split
    · exact ⟨fun _ => rfl, fun _ => rfl, sp_eq_add_zero_mod s⟩
    · exact ⟨fun _ => rfl, fun _ => rfl, sp_eq_add_zero_mod s⟩
  | call x => exact ⟨_, exec_call x s, fun _ => rfl, fun _ => rfl, spAfterPush_toNat s⟩
  | ret x => exact ⟨_, exec_ret x s, fun _ => rfl, fun _ => rfl, popAddr_toNat s⟩
  | out x => exact ⟨_, exec_out x s, fun _ => rfl, fun _ => rfl, sp_eq_add_zero_mod s⟩
  | push x => exact ⟨_, exec_push x s, fun _ => rfl, fun _ => rfl, spAfterPush_toNat s⟩
  | pop x => exact ⟨_, exec_pop x s, nofun, nofun, popAddr_toNat s⟩
  | halt x => exact ⟨_, exec_halt x s, fun _ => rfl, fun _ => rfl, sp_eq_add_zero_mod s⟩
  | invalid op x => exact ⟨_, exec_invalid op x s, fun _ => rfl, fun _ => rfl, sp_eq_add_zero_mod s⟩

end Sys2Proof.Machine

namespace Sys2Proof

/-- R23's columns by opcode number (R55). -/
theorem decodePair_writers (op x : Byte) :
    (decodePair op x).writesA = decide (op.toNat ∈ [0x01, 0x03, 0x04, 0x06, 0x07, 0x0F]) ∧
    (decodePair op x).writesZ = decide (op.toNat ∈ [0x01, 0x03, 0x04, 0x05, 0x06, 0x07, 0x0F]) ∧
    (decodePair op x).spShift =
      if op.toNat = 0x0B ∨ op.toNat = 0x0E then 255
      else if op.toNat = 0x0C ∨ op.toNat = 0x0F then 1 else 0 := by
  rcases decodePair_cases op x with
    ⟨rfl, row⟩ | ⟨rfl, row⟩ | ⟨rfl, row⟩ | ⟨rfl, row⟩ | ⟨rfl, row⟩ | ⟨rfl, row⟩ | ⟨rfl, row⟩ | ⟨rfl, row⟩ |
    ⟨rfl, row⟩ | ⟨rfl, row⟩ | ⟨rfl, row⟩ | ⟨rfl, row⟩ | ⟨rfl, row⟩ | ⟨rfl, row⟩ | ⟨rfl, row⟩ | ⟨rfl, row⟩ |
    ⟨rfl, row⟩ | ⟨low, -, row⟩ <;> rw [row]
  iterate 17 · exact ⟨rfl, rfl, rfl⟩
  · simp only [Instr.writesA, Instr.writesZ, Instr.spShift, List.mem_cons, List.not_mem_nil, or_false,
      eq_comm (a := false), decide_eq_false_iff_not]
    refine ⟨by omega, by omega, ?_⟩
    rw [if_neg (by omega), if_neg (by omega)]

end Sys2Proof

namespace Sys2Proof.Machine

/-- Settles O35: a halted step writes nothing, and a running one writes what its instruction's columns list. -/
theorem onlyTheListedInstructionsWriteAZSp : Obligations.OnlyTheListedInstructionsWriteAZSp := by
  rintro s _ rfl
  rcases step_cases s with ⟨hr, halted⟩ | ⟨hr, running⟩
  · refine ⟨s, halted, fun _ => rfl, fun _ => rfl, ?_⟩
    simpa [hr] using sp_eq_add_zero_mod s
  · obtain ⟨writesA, writesZ, spShift⟩ := decodePair_writers (readByte s s.cpu.pc) (readByte s (s.cpu.pc + 1))
    obtain ⟨t, executed, a, z, sp⟩ := exec_writesAsListed (decodePair (readByte s s.cpu.pc)
      (readByte s (s.cpu.pc + 1))) s
    rw [writesA, decide_eq_false_iff_not] at a
    rw [writesZ, decide_eq_false_iff_not] at z
    rw [spShift] at sp
    simp only [hr, true_and]
    exact ⟨t, running.trans executed, a, z, sp⟩

end Sys2Proof.Machine

/-! SUPPORT. Self-modifying code (20_memory.md R44): what is fetched after a STORE that lands. -/

namespace Sys2Proof.Machine

@[simp] theorem readByte_epilogue (s : State) (b : Addr) : readByte (epilogue s) b = readByte s b := rfl

/-- A running step over the bytes `0x02 x`, where the gate does not deny the store, is the plain write and the
epilogue (R81, R126). -/
theorem step_store_lands {x : Addr} {s : State} (hr : s.cpu.run = true) (hop : readByte s s.cpu.pc = 0x02)
    (hx : readByte s (s.cpu.pc + 1) = x) (h : ¬ (0xE0 ≤ x.toNat ∧ s.cpu.vb = false)) :
    step s = .next (epilogue (memWrite x s.cpu.a s)) := by
  have fetched : fetchInstr s = .store x := by rw [fetchInstr_eq, hop, hx]; rfl
  rw [step_running hr, fetched, exec_store, storeGated_lands _ h]

/-- After a byte is written at `PC + 2` and the epilogue moves `PC` there, that byte is fetched as the opcode, and the
byte after it, which the write leaves as it was, as the operand. -/
theorem fetchInstr_epilogue_memWrite_nextPc (v : Byte) (s : State) :
    fetchInstr (epilogue (memWrite (s.cpu.pc + 2) v s)) = decodePair v (readByte s (s.cpu.pc + 3)) := by
  have hpc : (epilogue (memWrite (s.cpu.pc + 2) v s)).cpu.pc = s.cpu.pc + 2 := rfl
  have hne : s.cpu.pc + 3 ≠ s.cpu.pc + 2 := by simp
  have hoperand : s.cpu.pc + 2 + 1 = s.cpu.pc + 3 := by rw [BitVec.add_assoc]; rfl
  rw [fetchInstr_eq, hpc, hoperand, readByte_epilogue, readByte_epilogue, readByte_memWrite, readByte_memWrite,
    if_pos rfl, if_neg hne]

/-- Settles O50: the store lands at the next `PC`, and the machine still runs, so the next step executes what is
fetched there. -/
theorem storedOpcodeIsExecutedNext : Obligations.StoredOpcodeIsExecutedNext := by
  intro s hr hop hx hgate
  have still_running : (epilogue (memWrite (s.cpu.pc + 2) s.cpu.a s)).cpu.run = true := hr
  refine ⟨_, _, step_store_lands hr hop hx hgate, rfl, ?_⟩
  rw [step_running still_running, fetchInstr_epilogue_memWrite_nextPc]

end Sys2Proof.Machine

/-! SUPPORT. The encoder undoes the decoder, read off the rows of the opcode map (30_encoding.md R54, R55). -/

namespace Sys2Proof

/-- Every row of the map makes well-formed instructions, and the encoder writes them back with the row's own opcode
byte (R55). -/
theorem opcodeTable_row_encode :
    ∀ row ∈ opcodeTable, ∀ x : Byte, (row.2 x).WellFormed ∧ encode (row.2 x) = [row.1, x] := by
  simp [opcodeTable, Instr.WellFormed, Instr.wellFormed, encode]

/-- A byte outside 0x10 to 0xFE decodes by a row of the map under that very byte (R52, R55). -/
theorem decodePair_of_defined {op : Byte} (h : isInvalidOpcode op = false) :
    ∃ row, (op, row) ∈ opcodeTable ∧ decodePair op = row := by
  obtain ⟨row, found⟩ := Option.isSome_iff_exists.mp (lookup_defined op h)
  obtain ⟨before, after, table, -⟩ := List.lookup_eq_some_iff.mp found
  refine ⟨row, by simp [table], ?_⟩
  funext x
  rw [decodePair, found]

/-- What two bytes decode to is well-formed. -/
theorem decodePair_wellFormed (op x : Byte) : (decodePair op x).WellFormed := by
  cases h : isInvalidOpcode op with
  | true => rwa [decodePair_invalid h]
  | false =>
    obtain ⟨row, listed, rfl⟩ := decodePair_of_defined h
    exact (opcodeTable_row_encode _ listed x).1

/-- What two bytes decode to is encoded as those two bytes (R54). -/
theorem encode_decodePair (op x : Byte) : encode (decodePair op x) = [op, x] := by
  cases h : isInvalidOpcode op with
  | true => rw [decodePair_invalid h, encode]
  | false =>
    obtain ⟨row, listed, rfl⟩ := decodePair_of_defined h
    exact (opcodeTable_row_encode _ listed x).2

/-- Settles O21: an invalid opcode byte is carried whole, and a defined one is its row's own. -/
theorem everyTwoBytesAreTheEncodingOfTheirDecoding : Obligations.EveryTwoBytesAreTheEncodingOfTheirDecoding :=
  fun op x rest =>
    ⟨decodePair op x, decode_cons_cons op x rest, decodePair_wellFormed op x, encode_decodePair op x⟩

/-- Settles O22: each defined byte finds its own row of the map, and a byte in 0x10 to 0xFE finds none. -/
theorem opcodeByteIsDecodedWhole : Obligations.OpcodeByteIsDecodedWhole := by
  intro x
  refine ⟨rfl, rfl, rfl, rfl, rfl, rfl, rfl, rfl, rfl, rfl, rfl, rfl, rfl, rfl, rfl, rfl, rfl, ?_⟩
  intro op low high
  rw [decode_cons_cons, decodePair_invalid ((isInvalidOpcode_iff op).mpr ⟨low, high⟩)]

end Sys2Proof

/-! SUPPORT. The step cycle (40_step_cycle.md): what a running step executes, and that no run is stuck. -/

namespace Sys2Proof.Machine

/-- Every instruction answers a state, on any state (R72). -/
theorem exec_answers (i : Instr) (s : State) : ∃ t, exec i s = .next t := by
  obtain ⟨t, executed, -⟩ := exec_writesAsListed i s
  exact ⟨t, executed⟩

/-- Every step answers a state: the same one while halted, and otherwise the executed instruction's (R65, R72). -/
theorem step_answers (s : State) : ∃ t, step s = .next t := by
  rcases step_cases s with ⟨-, halted⟩ | ⟨-, running⟩
  · exact ⟨s, halted⟩
  · rw [running]
    exact exec_answers _ s

/-- Settles O27, by induction on the number of steps: the first step answers a state, and the run goes on from it. -/
theorem everyRunAnswersAState : Obligations.EveryRunAnswersAState := by
  intro n
  induction n with
  | zero => exact fun s => ⟨s, rfl⟩
  | succ n ih =>
    intro s
    obtain ⟨t, stepped⟩ := step_answers s
    rw [run_succ n stepped]
    exact ih t

/-- The operand byte's address wraps from 0xFF to 0x00 (R66). -/
theorem operandAddr_toNat (s : State) : (operandAddr s).toNat = (s.cpu.pc.toNat + 1) % 256 := by
  simp [operandAddr, BitVec.toNat_add]

/-- Settles O24: the two addresses are the fetch's own, so the instruction decoded there is the one fetched. -/
theorem runningStepExecutesTheDecodedInstruction : Obligations.RunningStepExecutesTheDecodedInstruction := by
  intro s p q i hr hp hq hdecode
  obtain rfl : p = opcodeAddr s := BitVec.eq_of_toNat_eq hp
  obtain rfl : q = operandAddr s := BitVec.eq_of_toNat_eq (hq.trans (operandAddr_toNat s).symm)
  have fetched : fetchInstr s = i :=
    congrArg Prod.fst (Except.ok.inj ((decode_fetchBytes s).symm.trans hdecode))
  rw [step_running hr, fetched]

end Sys2Proof.Machine

/-! SUPPORT. ADD, SUB, CMP, INC and DEC (42_arithmetic.md): the zero flag of a difference, and what all five
leave unchanged. -/

namespace Sys2Proof.Machine

/-- A difference is zero exactly when its terms are equal: the zero flag that SUB leaves (R86). -/
theorem zeroFlag_sub (a m : Byte) : zeroFlag (a - m) = decide (a = m) := by
  rw [zeroFlag, beq_eq_decide, decide_eq_decide]
  exact sub_eq_zero

/-- CMP's flag is the flag of the difference that it does not keep (R91). -/
theorem compareFlag_eq_zeroFlag_sub (a m : Byte) : compareFlag a m = zeroFlag (a - m) := by
  rw [zeroFlag_sub, compareFlag, beq_eq_decide]

/-- Modulo 256, to add one is to subtract 0xFF. -/
theorem add_one_eq_sub_max (a : Byte) : a + 1 = a - 0xFF := (BitVec.sub_eq_add_neg a 0xFF).symm

/-- A difference of bytes is the integer difference modulo 256 (R7, R90). -/
theorem toNat_sub_eq_int_emod (a m : Byte) : ((a - m).toNat : Int) = ((a.toNat : Int) - (m.toNat : Int)) % 256 := by
  rw [BitVec.toNat_sub]
  omega

/-- The step from `s` to `t` was counted and left `SP`, `RUN`, the stream and memory alone: `A` and `Z` are free. -/
def CountedFrame (s t : State) : Prop :=
  Counted s.cpu.pc s t ∧ t.cpu.sp = s.cpu.sp ∧ t.cpu.run = s.cpu.run ∧ t.events = s.events ∧ SameMem s t

theorem epilogue_withZ_frame (b : Bool) (s : State) : CountedFrame s (epilogue (s.withZ b)) :=
  ⟨epilogue_counted rfl, rfl, rfl, rfl, fun _ => rfl⟩

theorem epilogue_setA_frame (v : Byte) (s : State) : CountedFrame s (epilogue (setA v s)) :=
  epilogue_withZ_frame (zeroFlag v) (s.withA v)

/-- Settles O48: the second operation reads the byte that the first one read, and modulo 256 a difference undoes a
sum; CMP's flag is the difference's. -/
theorem arithmeticUndoesItself : Obligations.ArithmeticUndoesItself := by
  intro x y s
  refine ⟨⟨_, _, exec_add x s, exec_sub x _, ?_⟩, ⟨_, _, exec_inc x s, exec_dec y _, ?_⟩,
    ⟨_, _, exec_sub x s, exec_cmp x s, ?_⟩⟩
  · exact BitVec.add_sub_cancel s.cpu.a (readByte s x)
  · exact BitVec.add_sub_cancel s.cpu.a 1
  · exact (compareFlag_eq_zeroFlag_sub s.cpu.a (readByte s x)).symm

/-- Settles O4: the sum of bytes is the sum of numbers modulo 256. -/
theorem addIsModulo256AndRecomputesZ : Obligations.AddIsModulo256AndRecomputesZ := fun x s =>
  ⟨_, exec_add x s, BitVec.toNat_add s.cpu.a (readByte s x), zeroFlag_eq _, epilogue_setA_frame _ s⟩

/-- Settles O5: the flag is read once as equality and once as a zero result. -/
theorem subIsModulo256AndRecomputesZ : Obligations.SubIsModulo256AndRecomputesZ := fun x s =>
  ⟨_, exec_sub x s, toNat_sub_eq_int_emod s.cpu.a (readByte s x), zeroFlag_sub s.cpu.a (readByte s x),
    zeroFlag_eq _, epilogue_setA_frame _ s⟩

/-- Settles O6: only the flag is written before the epilogue. -/
theorem cmpWritesOnlyZFromEquality : Obligations.CmpWritesOnlyZFromEquality := fun x s =>
  ⟨_, exec_cmp x s, compareFlag_eq s.cpu.a (readByte s x), rfl, epilogue_withZ_frame _ s⟩

/-- Settles O7: the sum with one is zero exactly when the difference from 0xFF is. -/
theorem incIsModulo256AndRecomputesZ : Obligations.IncIsModulo256AndRecomputesZ := by
  intro x s
  have zero_iff_max : zeroFlag (s.cpu.a + 1) = decide (s.cpu.a = 0xFF) := by
    rw [add_one_eq_sub_max, zeroFlag_sub]
  exact ⟨_, exec_inc x s, BitVec.toNat_add s.cpu.a 1, zeroFlag_eq _, zero_iff_max, epilogue_setA_frame _ s⟩

/-- Settles O8: DEC is the subtraction of one. -/
theorem decIsModulo256AndRecomputesZ : Obligations.DecIsModulo256AndRecomputesZ := fun x s =>
  ⟨_, exec_dec x s, toNat_sub_eq_int_emod s.cpu.a 1, zeroFlag_eq _, zeroFlag_sub s.cpu.a 1,
    epilogue_setA_frame _ s⟩

end Sys2Proof.Machine

/-! SUPPORT. JMP, JZ, JNZ and RET (43_control_transfer.md): the two ways a jump can go, and that either way only
`PC`, `CC` and `VB` can change. -/

namespace Sys2Proof.Machine

/-- The step from `s` to `t` left `A`, `Z`, `SP`, `RUN`, the stream and memory alone: `PC`, `CC` and `VB` are free. -/
def TransferFrame (s t : State) : Prop :=
  t.cpu.a = s.cpu.a ∧ t.cpu.z = s.cpu.z ∧ t.cpu.sp = s.cpu.sp ∧ t.cpu.run = s.cpu.run ∧ t.events = s.events ∧
    SameMem s t

/-- A jump taken is not counted, and lands on its target (R68). -/
theorem withPc_notCounted (x : Addr) (s : State) : NotCounted x s (s.withPc x) := ⟨rfl, rfl, rfl⟩

theorem withPc_transferFrame (x : Addr) (s : State) : TransferFrame s (s.withPc x) :=
  ⟨rfl, rfl, rfl, rfl, rfl, fun _ => rfl⟩

theorem epilogue_transferFrame (s : State) : TransferFrame s (epilogue s) :=
  ⟨rfl, rfl, rfl, rfl, rfl, fun _ => rfl⟩

/-- Settles O9: JMP is the jump taken, on every state. -/
theorem jmpSetsPcAndSkipsTheEpilogue : Obligations.JmpSetsPcAndSkipsTheEpilogue := fun x s =>
  ⟨_, exec_jmp x s, withPc_notCounted x s, withPc_transferFrame x s⟩

/-- Settles O10: with `Z` set the jump is taken, and with `Z` clear only the epilogue runs. -/
theorem jzJumpsExactlyWhenZIsTrue : Obligations.JzJumpsExactlyWhenZIsTrue := by
  intro x s
  refine ⟨_, exec_jz x s, ?_⟩
  split
  next set =>
    exact ⟨fun _ => withPc_notCounted x s, fun clear => absurd set (ne_true_of_eq_false clear),
      withPc_transferFrame x s⟩
  next notSet =>
    exact ⟨fun set => absurd set notSet, fun _ => epilogue_counted rfl, epilogue_transferFrame s⟩

/-- Settles O11: with `Z` set only the epilogue runs, and with `Z` clear the jump is taken. -/
theorem jnzJumpsExactlyWhenZIsFalse : Obligations.JnzJumpsExactlyWhenZIsFalse := by
  intro x s
  refine ⟨_, exec_jnz x s, ?_⟩
  split
  next set =>
    exact ⟨fun clear => absurd set (ne_true_of_eq_false clear),
      fun _ => epilogue_counted rfl, epilogue_transferFrame s⟩
  next notSet =>
    exact ⟨fun _ => withPc_notCounted x s, fun set => absurd set notSet, withPc_transferFrame x s⟩

/-- Settles O13: the epilogue runs from the byte popped at the new `SP`, so `PC` is two past that byte (conflict
C2). -/
theorem retResumesTwoPastThePoppedByte : Obligations.RetResumesTwoPastThePoppedByte := fun x s =>
  ⟨_, exec_ret x s, ⟨popAddr s, popAddr_toNat s, rfl, epilogue_counted rfl⟩, rfl, rfl, rfl, rfl, fun _ => rfl⟩

end Sys2Proof.Machine

/-! SUPPORT. PUSH and POP (44_stack.md): the byte that a push leaves, and that the pop address undoes the push's
decrement. -/

namespace Sys2Proof.Machine

/-- A pop reads where the push wrote, modulo 256 (R15). -/
theorem popAddr_of_sp_eq_spAfterPush {s u : State} (h : u.cpu.sp = spAfterPush s) : popAddr u = s.cpu.sp := by
  rw [popAddr, h]
  exact BitVec.sub_add_cancel s.cpu.sp 1

/-- The cell at the old `SP` holds the byte pushed, wherever `SP` moves. -/
theorem readByte_memWrite_sp_withSp (v : Byte) (b : Addr) (s : State) :
    readByte ((memWrite s.cpu.sp v s).withSp b) s.cpu.sp = v :=
  (readByte_memWrite s.cpu.sp s.cpu.sp v s).trans (if_pos rfl)

/-- Settles O16: `A` is set to the byte at the new `SP`, and no memory is written. -/
theorem popIncrementsSpThenLoadsA : Obligations.PopIncrementsSpThenLoadsA := fun x s =>
  ⟨_, exec_pop x s, ⟨popAddr s, popAddr_toNat s, rfl, rfl⟩, zeroFlag_eq _, epilogue_counted rfl, rfl, rfl,
    fun _ => rfl⟩

/-- Settles O45: the pop reads at the `SP` the push started from, where the byte pushed still stands. -/
theorem pushThenPopRestoresAAndSp : Obligations.PushThenPopRestoresAAndSp := by
  intro x y s
  refine ⟨_, exec_push x s, fun u hsp hbyte => ⟨_, exec_pop y u, ?_⟩⟩
  have address : popAddr u = s.cpu.sp := popAddr_of_sp_eq_spAfterPush hsp
  have byte : readByte u s.cpu.sp = s.cpu.a :=
    hbyte.trans (readByte_memWrite_sp_withSp s.cpu.a (spAfterPush s) s)
  rw [address, byte]
  exact ⟨rfl, rfl, byte, zeroFlag_eq s.cpu.a⟩

end Sys2Proof.Machine

/-! SUPPORT. NOP (45_system.md). -/

namespace Sys2Proof.Machine

/-- Settles O1: NOP is the epilogue alone, run from the instruction's own `PC`. -/
theorem nopOnlyRunsTheEpilogue : Obligations.NopOnlyRunsTheEpilogue := fun x s =>
  ⟨_, exec_nop x s, epilogue_counted rfl, epilogue_transferFrame s⟩

end Sys2Proof.Machine

/-! SUPPORT. The counter, the window and the gate (46_vblank_and_gate.md): which instructions advance `CC`, and
where in memory an instruction's write lands. -/

namespace Sys2Proof

/-- The instructions that run the epilogue, given the flag that JZ and JNZ read (R68, R122). -/
def Instr.fallsThrough (z : Bool) : Instr → Bool
  | .nop _ | .load _ | .store _ | .add _ | .sub _ | .cmp _ | .inc _ | .dec _ | .ret _ | .out _ | .push _
  | .pop _ => true
  | .jz _ => !z
  | .jnz _ => z
  | .jmp _ | .call _ | .halt _ | .invalid _ _ => false

/-- The instructions that run the epilogue, by opcode number (R55, R122). -/
theorem decodePair_fallsThrough_iff (op x : Byte) (z : Bool) :
    (decodePair op x).fallsThrough z = true ↔
      op.toNat ≤ 0x07 ∨ (op.toNat = 0x09 ∧ z = false) ∨ (op.toNat = 0x0A ∧ z = true) ∨
        (0x0C ≤ op.toNat ∧ op.toNat ≤ 0x0F) := by
  rcases decodePair_cases op x with
    ⟨rfl, row⟩ | ⟨rfl, row⟩ | ⟨rfl, row⟩ | ⟨rfl, row⟩ | ⟨rfl, row⟩ | ⟨rfl, row⟩ | ⟨rfl, row⟩ | ⟨rfl, row⟩ |
    ⟨rfl, row⟩ | ⟨rfl, row⟩ | ⟨rfl, row⟩ | ⟨rfl, row⟩ | ⟨rfl, row⟩ | ⟨rfl, row⟩ | ⟨rfl, row⟩ | ⟨rfl, row⟩ |
    ⟨rfl, row⟩ | ⟨low, -, row⟩ <;> rw [row]
  iterate 17 · simp [Instr.fallsThrough]
  · simp only [Instr.fallsThrough, Bool.false_eq_true, false_iff]
    omega

end Sys2Proof

namespace Sys2Proof.Machine

/-- The gate decides about memory and the stream only, never about the counter (R126, R128). -/
@[simp] theorem storeGated_cc (b : Addr) (v : Byte) (s : State) : (storeGated b v s).cpu.cc = s.cpu.cc := by
  obtain ⟨m, es, frame⟩ := storeGated_frame b v s
  rw [frame]
  rfl

/-- An instruction advances the counter by one when it falls through, and otherwise leaves it (R122). -/
theorem exec_cc (i : Instr) (s : State) :
    ∃ t, exec i s = .next t ∧ t.cpu.cc = s.cpu.cc + if i.fallsThrough s.cpu.z = true then 1 else 0 := by
  cases i with
  | nop | load | add | sub | cmp | inc | dec | ret | out | push | pop => exact ⟨_, rfl, rfl⟩
  | jmp | call | halt | invalid => exact ⟨_, rfl, rfl⟩
  | store x => exact ⟨_, exec_store x s, congrArg (· + 1) (storeGated_cc x s.cpu.a s)⟩
  | jz x =>
    refine ⟨_, exec_jz x s, ?_⟩
    cases z : s.cpu.z
    · rfl
    · rfl
  | jnz x =>
    refine ⟨_, exec_jnz x s, ?_⟩
    cases z : s.cpu.z
    · rfl
    · rfl

/-- Settles O33: a halted step counts nothing, and a running one counts exactly when its instruction falls through. -/
theorem counterCountsExactlyTheFallThroughSteps : Obligations.CounterCountsExactlyTheFallThroughSteps := by
  rintro s _ rfl
  rcases step_cases s with ⟨hr, halted⟩ | ⟨hr, running⟩
  · exact ⟨s, halted, by simp [hr]⟩
  · obtain ⟨t, executed, cc⟩ := exec_cc (decodePair (readByte s s.cpu.pc) (readByte s (s.cpu.pc + 1))) s
    simp only [decodePair_fallsThrough_iff] at cc
    simp only [hr, true_and]
    exact ⟨t, running.trans executed, cc⟩

/-- The address at which the instruction writes memory from this state, if its write lands: a STORE's operand unless
the gate denies it, and `SP` for the ungated CALL and PUSH (R126, R127, D2). -/
def landsAt (s : State) : Instr → Option Addr
  | .store x => if 0xE0 ≤ x.toNat ∧ s.cpu.vb = false then none else some x
  | .call _ | .push _ => some s.cpu.sp
  | .nop _ | .load _ | .add _ | .sub _ | .cmp _ | .inc _ | .dec _ | .jmp _ | .jz _ | .jnz _ | .ret _ | .out _
  | .pop _ | .halt _ | .invalid _ _ => none

/-- A gated write leaves every byte but the one where it lands. -/
theorem readByte_storeGated_of_not_landsAt {s : State} {x b : Addr} (v : Byte) (h : landsAt s (.store x) ≠ some b) :
    readByte (storeGated x v s) b = readByte s b := by
  rcases storeGated_cases x v s with ⟨gate_open, lands⟩ | ⟨-, -, denied⟩
  · rw [landsAt, if_neg gate_open] at h
    have other : b ≠ x := (ne_of_apply_ne some h).symm
    rw [lands, readByte_memWrite, if_neg other]
  · rw [denied]
    rfl

/-- A push leaves every byte but the one at the old `SP`. -/
theorem readByte_push_of_ne {s : State} {b : Addr} (v : Byte) (sp : Addr) (h : s.cpu.sp ≠ b) :
    readByte ((memWrite s.cpu.sp v s).withSp sp) b = readByte s b :=
  (readByte_memWrite s.cpu.sp b v s).trans (if_neg h.symm)

/-- An instruction leaves every byte of memory but the one where its write lands. -/
theorem exec_readByte_of_not_landsAt (i : Instr) (s : State) :
    ∃ t, exec i s = .next t ∧ ∀ b, landsAt s i ≠ some b → readByte t b = readByte s b := by
  cases i with
  | nop | load | add | sub | cmp | inc | dec | jmp | ret | out | pop | halt | invalid =>
    exact ⟨_, rfl, fun _ _ => rfl⟩
  | store x => exact ⟨_, exec_store x s, fun _ => readByte_storeGated_of_not_landsAt s.cpu.a⟩
  | call x => exact ⟨_, exec_call x s, fun _ h => readByte_push_of_ne _ (spAfterPush s) (ne_of_apply_ne some h)⟩
  | push x => exact ⟨_, exec_push x s, fun _ h => readByte_push_of_ne _ (spAfterPush s) (ne_of_apply_ne some h)⟩
  | jz x =>
    refine ⟨_, exec_jz x s, fun b _ => ?_⟩
    split
    · rfl
    · rfl
  | jnz x =>
    refine ⟨_, exec_jnz x s, fun b _ => ?_⟩
    split
    · rfl
    · rfl

/-- While the window is closed a write lands below the region, provided that a push (a shift of `SP` by 255) starts
from an `SP` below it. -/
theorem landsAt_lt_of_closed {s : State} {i : Instr} {b : Addr} (closed : s.cpu.vb = false)
    (push_below : i.spShift = 255 → s.cpu.sp.toNat < 0xE0) (lands : landsAt s i = some b) : b.toNat < 0xE0 := by
  cases i with
  | store x =>
    obtain ⟨gate, rfl⟩ : ¬ (0xE0 ≤ x.toNat ∧ s.cpu.vb = false) ∧ x = b := by simpa [landsAt] using lands
    exact not_le.mp fun inside => gate ⟨inside, closed⟩
  | call | push =>
    obtain rfl : s.cpu.sp = b := Option.some.inj lands
    exact push_below rfl
  | _ => nomatch lands

/-- Only the opcodes of CALL and PUSH decode to a push (R55, R107). -/
theorem opcode_of_spShift_push {op x : Byte} (h : (decodePair op x).spShift = 255) :
    op.toNat = 0x0B ∨ op.toNat = 0x0E := by
  obtain ⟨-, -, spShift⟩ := decodePair_writers op x
  rw [h] at spShift
  by_contra other
  rw [if_neg other] at spShift
  split at spShift
  · cases spShift
  · cases spShift

/-- Settles O37: a halted step changes nothing, and a running one writes below the region if anywhere. -/
theorem closedWindowProtectsTheFramebuffer : Obligations.ClosedWindowProtectsTheFramebuffer := by
  intro s closed hsp
  rcases step_cases s with ⟨-, halted⟩ | ⟨hr, running⟩
  · exact ⟨s, halted, fun _ _ => rfl⟩
  · obtain ⟨t, executed, unchanged⟩ :=
      exec_readByte_of_not_landsAt (decodePair (readByte s s.cpu.pc) (readByte s (s.cpu.pc + 1))) s
    refine ⟨t, running.trans executed, fun b inside => unchanged b fun lands => ?_⟩
    have below := landsAt_lt_of_closed closed (fun push => hsp hr (opcode_of_spShift_push push)) lands
    exact absurd inside (not_le.mpr below)

/-- Settles O49: the gate reads the `VB` of the phase before the epilogue (D23), and the epilogue then sets `VB` from
the next phase. -/
theorem storeLandsExactlyInPhasesZeroToSeven : Obligations.StoreLandsExactlyInPhasesZeroToSeven := by
  intro x s inside hvb
  have vb_after : (epilogue (storeGated x s.cpu.a s)).cpu.vb = decide ((s.cpu.cc + 1) % 64 < 8) := by
    rw [epilogue_vb, storeGated_cc]
  refine ⟨_, exec_store x s, fun early => ?_, fun late => ?_, fun seven => ?_, fun last => ?_⟩
  · have gate_open : s.cpu.vb = true := hvb.trans (decide_eq_true early)
    rw [readByte_epilogue, storeGated_lands _ (by simp [gate_open]), readByte_memWrite, if_pos rfl]
  · have gate_closed : s.cpu.vb = false := hvb.trans (decide_eq_false (not_lt.mpr late))
    rw [storeGated_denied _ inside gate_closed]
    rfl
  · exact vb_after.trans (decide_eq_false (by omega))
  · exact vb_after.trans (decide_eq_true (by omega))

end Sys2Proof.Machine

/-! SUPPORT. The case analysis on an opcode byte, one named case per row of the opcode map (30_encoding.md R55). -/

namespace Sys2Proof

/-- A claim about every opcode byte is one about each of the 17 defined ones and about the bytes 0x10 to 0xFE. -/
theorem opcode_cases {motive : Byte → Prop}
    (nop : motive Opcode.nop) (load : motive Opcode.load) (store : motive Opcode.store)
    (add : motive Opcode.add) (sub : motive Opcode.sub) (cmp : motive Opcode.cmp) (inc : motive Opcode.inc)
    (dec : motive Opcode.dec) (jmp : motive Opcode.jmp) (jz : motive Opcode.jz) (jnz : motive Opcode.jnz)
    (call : motive Opcode.call) (ret : motive Opcode.ret) (out : motive Opcode.out)
    (push : motive Opcode.push) (pop : motive Opcode.pop) (halt : motive Opcode.halt)
    (invalid : ∀ op, 0x10 ≤ op.toNat → op.toNat ≤ 0xFE → motive op) (op : Byte) : motive op := by
  rcases decodePair_cases op 0x00 with
    ⟨rfl, -⟩ | ⟨rfl, -⟩ | ⟨rfl, -⟩ | ⟨rfl, -⟩ | ⟨rfl, -⟩ | ⟨rfl, -⟩ | ⟨rfl, -⟩ | ⟨rfl, -⟩ | ⟨rfl, -⟩ |
    ⟨rfl, -⟩ | ⟨rfl, -⟩ | ⟨rfl, -⟩ | ⟨rfl, -⟩ | ⟨rfl, -⟩ | ⟨rfl, -⟩ | ⟨rfl, -⟩ | ⟨rfl, -⟩ | ⟨low, high, -⟩
  iterate 17 · assumption
  · exact invalid op low high

/-- A byte in 0x10 to 0xFE decodes to the invalid row (R56). -/
theorem decodePair_of_range {op : Byte} (low : 0x10 ≤ op.toNat) (high : op.toNat ≤ 0xFE) (x : Byte) :
    decodePair op x = .invalid op x := decodePair_invalid ((isInvalidOpcode_iff op).mpr ⟨low, high⟩) x

end Sys2Proof

/-! SUPPORT. The decoder undoes the encoder, for every well-formed instruction (30_encoding.md sections 1 to 4). -/

namespace Sys2Proof

/-- Every well-formed instruction is what its own two bytes decode to. -/
theorem roundTrip (i : Instr) : Laws.RoundTrip.Statement i := by
  cases i with
  | nop x => exact Laws.RoundTrip.nop x
  | load x => exact Laws.RoundTrip.load x
  | store x => exact Laws.RoundTrip.store x
  | add x => exact Laws.RoundTrip.add x
  | sub x => exact Laws.RoundTrip.sub x
  | cmp x => exact Laws.RoundTrip.cmp x
  | inc x => exact Laws.RoundTrip.inc x
  | dec x => exact Laws.RoundTrip.dec x
  | jmp x => exact Laws.RoundTrip.jmp x
  | jz x => exact Laws.RoundTrip.jz x
  | jnz x => exact Laws.RoundTrip.jnz x
  | call x => exact Laws.RoundTrip.call x
  | ret x => exact Laws.RoundTrip.ret x
  | out x => exact Laws.RoundTrip.out x
  | push x => exact Laws.RoundTrip.push x
  | pop x => exact Laws.RoundTrip.pop x
  | halt x => exact Laws.RoundTrip.halt x
  | invalid op x => exact Laws.RoundTrip.invalid op x

/-- Settles O20: the encoding is two bytes that decode to the instruction, and the decoder hands the rest back. -/
theorem decodeOfEncodeIsTheInstruction : Obligations.DecodeOfEncodeIsTheInstruction := by
  intro i rest wf
  obtain ⟨op, x, encoded, decoded⟩ := roundTrip i wf
  rw [encoded, List.cons_append, List.cons_append, List.nil_append, decode_cons_cons, decoded]

/-- Settles O23: each written-out word selects its own row of the map, or none. -/
theorem sampleWordsDecode : Obligations.SampleWordsDecode := ⟨rfl, rfl, rfl, rfl, rfl, rfl⟩

end Sys2Proof

/-! SUPPORT. The machine's step is the pseudocode of 40_step_cycle.md R70: each shared operation commutes with the
view as natural numbers, then each instruction, then the step. -/

namespace Sys2Proof.Reference

open Sys2Proof.Machine

/-- A memory of numbers read at a byte's address is the number of the byte there. -/
@[simp] theorem abstractState_M (s : State) (b : Addr) : (abstractState s).M b.toNat = (readByte s b).toNat := by
  simp [abstractState, b.isLt]

@[simp] theorem abstractState_M_succ (s : State) (b : Addr) :
    (abstractState s).M ((b.toNat + 1) % 256) = (readByte s (b + 1)).toNat := by
  rw [← abstractState_M, BitVec.toNat_add]
  rfl

theorem abstractState_epilogue (s : State) : abstractState (epilogue s) = (abstractState s).epilogue := by
  have pc : (epilogue s).cpu.pc.toNat = (s.cpu.pc.toNat + 2) % 256 := nextPc_toNat s
  simp only [abstractState, Abs.epilogue, pc]
  rfl

theorem abstractState_setA (v : Byte) (s : State) : abstractState (setA v s) = (abstractState s).setA v.toNat := by
  rw [Abs.setA, Nat.mod_eq_of_lt v.isLt, setA_eq]
  rfl

theorem abstractState_memWrite (b : Addr) (v : Byte) (s : State) :
    abstractState (memWrite b v s) = (abstractState s).memWrite b.toNat v.toNat := by
  have bytes : (abstractState (memWrite b v s)).M = ((abstractState s).memWrite b.toNat v.toNat).M := by
    funext n
    by_cases inside : n < 256
    · obtain ⟨c, rfl⟩ : ∃ c : Addr, n = c.toNat := ⟨BitVec.ofNat 8 n, by simp; omega⟩
      rw [abstractState_M, readByte_memWrite]
      simp only [Abs.memWrite, abstractState_M, Nat.mod_eq_of_lt b.isLt, Nat.mod_eq_of_lt v.isLt, BitVec.toNat_inj]
      split <;> rfl
    · have other : n ≠ b.toNat % 256 := by omega
      simp [abstractState, Abs.memWrite, inside, other]
  exact congrArg (fun M => ({ abstractState s with M := M } : Abs)) bytes

theorem abstractState_emit (e : Event) (s : State) :
    abstractState (emit e s) = { abstractState s with stream := (abstractState s).stream ++ [e] } := rfl

theorem abstractState_storeGated (b : Addr) (v : Byte) (s : State) :
    abstractState (storeGated b v s) = (abstractState s).storeGated b.toNat v.toNat := by
  have last : b.toNat ≤ 0xFF := Nat.le_of_lt_succ b.isLt
  rcases storeGated_cases b v s with ⟨gate, lands⟩ | ⟨inside, closed, denied⟩
  · rw [lands, abstractState_memWrite, Abs.storeGated, if_neg fun ⟨inside, _, closed⟩ => gate ⟨inside, closed⟩]
  · rw [denied, abstractState_emit, Abs.storeGated, if_pos ⟨inside, last, closed⟩, BitVec.ofNat_toNat,
      BitVec.setWidth_eq]

theorem abstractState_withSp (v : Addr) (s : State) :
    abstractState (s.withSp v) = { abstractState s with SP := v.toNat } := rfl

theorem abstractState_withPc (v : Addr) (s : State) :
    abstractState (s.withPc v) = { abstractState s with PC := v.toNat } := rfl

/-- A difference of bytes, in natural numbers. -/
theorem toNat_sub_eq_add_sub_mod (a m : Byte) : (a - m).toNat = (a.toNat + 256 - m.toNat) % 256 := by
  rw [BitVec.toNat_sub]
  omega

/-- Every opcode number in 0x10 to 0xFE selects the pseudocode's last case (R56, R70). -/
theorem Abs.case_invalid (q : Abs) {op : Nat} (x : Nat) (low : 0x10 ≤ op) (high : op ≤ 0xFE) :
    q.case op x =
      { q with
        RUN := false
        stream := q.stream ++ [Event.illegalOpcode (BitVec.ofNat 8 op) (BitVec.ofNat 8 q.PC)] } := by
  unfold Abs.case
  split
  case h_18 => rfl
  all_goals omega

/-- What two bytes decode to has the meaning of the pseudocode's case for their numbers. -/
theorem exec_refines_case (op x : Byte) (s : State) :
    ∃ t, exec (decodePair op x) s = .next t ∧
      abstractState t = (abstractState s).case op.toNat x.toNat := by
  cases op using opcode_cases with
  | nop => exact ⟨_, exec_nop x s, abstractState_epilogue s⟩
  | load =>
    refine ⟨_, exec_load x s, ?_⟩
    rw [abstractState_epilogue, abstractState_setA, ← abstractState_M]
    rfl
  | store =>
    refine ⟨_, exec_store x s, ?_⟩
    rw [abstractState_epilogue, abstractState_storeGated]
    rfl
  | add =>
    refine ⟨_, exec_add x s, ?_⟩
    rw [abstractState_epilogue, abstractState_setA, BitVec.toNat_add, ← abstractState_M]
    rfl
  | sub =>
    refine ⟨_, exec_sub x s, ?_⟩
    rw [abstractState_epilogue, abstractState_setA, toNat_sub_eq_add_sub_mod, ← abstractState_M]
    rfl
  | cmp =>
    refine ⟨_, exec_cmp x s, ?_⟩
    rw [abstractState_epilogue, compareFlag_eq, ← abstractState_M]
    rfl
  | inc =>
    refine ⟨_, exec_inc x s, ?_⟩
    rw [abstractState_epilogue, abstractState_setA, BitVec.toNat_add]
    rfl
  | dec =>
    refine ⟨_, exec_dec x s, ?_⟩
    rw [abstractState_epilogue, abstractState_setA, toNat_sub_eq_add_sub_mod]
    rfl
  | jmp => exact ⟨_, exec_jmp x s, rfl⟩
  | jz =>
    refine ⟨_, exec_jz x s, ?_⟩
    rw [apply_ite abstractState, abstractState_epilogue]
    rfl
  | jnz =>
    refine ⟨_, exec_jnz x s, ?_⟩
    split
    next set => exact (abstractState_epilogue s).trans (if_neg (ne_false_of_eq_true set)).symm
    next notSet => exact (if_pos (eq_false_of_ne_true notSet)).symm
  | call =>
    refine ⟨_, exec_call x s, ?_⟩
    rw [abstractState_withPc, abstractState_withSp, abstractState_memWrite, nextPc_toNat, spAfterPush_toNat]
    rfl
  | ret =>
    refine ⟨_, exec_ret x s, ?_⟩
    rw [abstractState_epilogue, abstractState_withPc, abstractState_withSp, popAddr_toNat, ← abstractState_M,
      popAddr_toNat]
    rfl
  | out =>
    refine ⟨_, exec_out x s, ?_⟩
    have reported : Event.out (BitVec.ofNat 8 x.toNat) (BitVec.ofNat 8 ((abstractState s).M x.toNat)) =
        .out x (readByte s x) := by simp
    rw [abstractState_epilogue, abstractState_emit, ← reported]
    rfl
  | push =>
    refine ⟨_, exec_push x s, ?_⟩
    rw [abstractState_epilogue, abstractState_withSp, abstractState_memWrite, spAfterPush_toNat]
    rfl
  | pop =>
    refine ⟨_, exec_pop x s, ?_⟩
    rw [abstractState_epilogue, abstractState_setA, abstractState_withSp, ← abstractState_M, popAddr_toNat]
    rfl
  | halt => exact ⟨_, exec_halt x s, rfl⟩
  | invalid op low high =>
    rw [decodePair_of_range low high]
    refine ⟨_, exec_invalid op x s, ?_⟩
    have reported : Event.illegalOpcode (BitVec.ofNat 8 op.toNat) (BitVec.ofNat 8 s.cpu.pc.toNat) =
        .illegalOpcode op s.cpu.pc := by simp
    rw [Abs.case_invalid _ _ low high, raiseIllegalOpcode_eq, ← reported]
    rfl

/-- Settles O28: a halted step is the same view, and a running one is the case of the two bytes at `PC`. -/
theorem stepRefinesThePseudocode : Obligations.StepRefinesThePseudocode := by
  intro s
  have view_run : (abstractState s).RUN = s.cpu.run := rfl
  have opcode : (abstractState s).M (abstractState s).PC = (readByte s s.cpu.pc).toNat := abstractState_M s s.cpu.pc
  have operand : (abstractState s).M (((abstractState s).PC + 1) % 256) = (readByte s (s.cpu.pc + 1)).toNat :=
    abstractState_M_succ s s.cpu.pc
  rw [Abs.step, view_run, opcode, operand]
  rcases step_cases s with ⟨hr, halted⟩ | ⟨hr, running⟩
  · rw [if_pos hr]
    exact ⟨s, halted, rfl⟩
  · rw [if_neg (ne_false_of_eq_true hr), running]
    exact exec_refines_case (readByte s s.cpu.pc) (readByte s (s.cpu.pc + 1)) s

end Sys2Proof.Reference

/-! SUPPORT. The event stream (10_state.md section 10): what each instruction appends to it, and that no rule reads
it. -/

namespace Sys2Proof.Machine

/-- The events that the instruction appends in this state: OUT's report, a denied STORE, an invalid opcode (R22). -/
def emitted (s : State) : Instr → List Event
  | .out x => [.out x (readByte s x)]
  | .store x => if 0xE0 ≤ x.toNat ∧ s.cpu.vb = false then [.vramWriteDenied x] else []
  | .invalid op _ => [.illegalOpcode op s.cpu.pc]
  | .nop _ | .load _ | .add _ | .sub _ | .cmp _ | .inc _ | .dec _ | .jmp _ | .jz _ | .jnz _ | .call _ | .ret _
  | .push _ | .pop _ | .halt _ => []

theorem storeGated_withEvents (b : Addr) (v : Byte) (s : State) (es : List Event) :
    storeGated b v (s.withEvents es) = (storeGated b v s).withEvents (es ++ emitted s (.store b)) := by
  rcases storeGated_cases b v s with ⟨gate, lands⟩ | ⟨inside, closed, denied⟩
  · rw [emitted, if_neg gate, List.append_nil, lands]
    exact storeGated_lands v gate
  · rw [emitted, if_pos ⟨inside, closed⟩, denied]
    exact storeGated_denied v inside closed

/-- On any other stream an instruction answers the same core state and appends the same events. -/
theorem exec_withEvents {i : Instr} {s t : State} (executed : exec i s = .next t) (es : List Event) :
    exec i (s.withEvents es) = .next (t.withEvents (es ++ emitted s i)) := by
  cases i with
  | nop | load | add | sub | cmp | inc | dec | jmp | call | ret | push | pop | halt =>
    obtain rfl := Host.Outcome.next.inj executed
    rw [emitted, List.append_nil]
    rfl
  | out | invalid =>
    obtain rfl := Host.Outcome.next.inj executed
    rfl
  | store x =>
    obtain rfl := Host.Outcome.next.inj executed
    rw [exec_store, State.withEvents_a, storeGated_withEvents]
    rfl
  | jz x =>
    obtain rfl := Host.Outcome.next.inj ((exec_jz x s).symm.trans executed)
    rw [emitted, List.append_nil, exec_jz, apply_ite (State.withEvents · es)]
    rfl
  | jnz x =>
    obtain rfl := Host.Outcome.next.inj ((exec_jnz x s).symm.trans executed)
    rw [emitted, List.append_nil, exec_jnz, apply_ite (State.withEvents · es)]
    rfl

/-- The stream after an instruction is the old one with its events at the end. -/
theorem exec_events {i : Instr} {s t : State} (executed : exec i s = .next t) :
    t.events = s.events ++ emitted s i := by
  have same : t = t.withEvents (s.events ++ emitted s i) :=
    Host.Outcome.next.inj (executed.symm.trans (exec_withEvents executed s.events))
  exact congrArg State.events same

/-- On any stream a step answers the same core state and appends the same events. -/
theorem step_withEvents (s : State) :
    ∃ (t : State) (new : List Event), ∀ es, step (s.withEvents es) = .next (t.withEvents (es ++ new)) := by
  rcases step_cases s with ⟨hr, -⟩ | ⟨hr, -⟩
  · refine ⟨s, [], fun es => ?_⟩
    rw [List.append_nil]
    exact step_halted hr
  · obtain ⟨t, executed⟩ := exec_answers (fetchInstr s) s
    refine ⟨t, emitted s (fetchInstr s), fun es => ?_⟩
    have still_running : (s.withEvents es).cpu.run = true := hr
    rw [step_running still_running]
    exact exec_withEvents executed es

/-- On any stream a run answers the same core state and appends the same events. -/
theorem run_withEvents (n : Nat) (s : State) :
    ∃ (t : State) (new : List Event), ∀ es,
      Host.Core.run Sys2Proof.core n (s.withEvents es) = .next (t.withEvents (es ++ new)) := by
  induction n generalizing s with
  | zero => exact ⟨s, [], fun es => by rw [List.append_nil]; rfl⟩
  | succ n ih =>
    obtain ⟨t, first, stepped⟩ := step_withEvents s
    obtain ⟨u, later, ran⟩ := ih t
    refine ⟨u, first ++ later, fun es => ?_⟩
    rw [run_succ n (stepped es), ran, List.append_assoc]

/-- Settles O42: both runs are the one run of `run_withEvents`, from the two streams. -/
theorem streamIsNeverRead : Obligations.StreamIsNeverRead := by
  intro n c d e
  obtain ⟨t, new, ran⟩ := run_withEvents n ⟨c, []⟩
  exact ⟨t.cpu, new, ran d, ran e⟩

end Sys2Proof.Machine

namespace Sys2Proof

open Machine

/-- What the two fetched bytes append to the stream, by opcode number (R55). -/
theorem emitted_decodePair (s : State) (op x : Byte) :
    emitted s (decodePair op x) =
      if op.toNat = 0x0D then [.out x (readByte s x)]
      else if op.toNat = 0x02 ∧ 0xE0 ≤ x.toNat ∧ s.cpu.vb = false then [.vramWriteDenied x]
      else if 0x10 ≤ op.toNat ∧ op.toNat ≤ 0xFE then [.illegalOpcode op s.cpu.pc]
      else [] := by
  cases op using opcode_cases with
  | nop | load | add | sub | cmp | inc | dec | jmp | jz | jnz | call | ret | out | push | pop |
    halt => rfl
  | store =>
    have row : decodePair Opcode.store x = .store x := rfl
    have number : Opcode.store.toNat = 2 := rfl
    simp [row, number, emitted]
  | invalid op low high =>
    rw [decodePair_of_range low high, if_neg (by omega), if_neg (by omega), if_pos ⟨low, high⟩, emitted]

end Sys2Proof

namespace Sys2Proof.Machine

/-- Settles O38: a halted step appends nothing, and a running one the events of the instruction fetched. -/
theorem stepEmitsExactlyTheseEvents : Obligations.StepEmitsExactlyTheseEvents := by
  rintro s _ _ rfl rfl
  rcases step_cases s with ⟨hr, halted⟩ | ⟨hr, running⟩
  · refine ⟨s, halted, ?_⟩
    rw [if_pos hr, List.append_nil]
  · obtain ⟨t, executed⟩ := exec_answers (decodePair (readByte s s.cpu.pc) (readByte s (s.cpu.pc + 1))) s
    refine ⟨t, running.trans executed, ?_⟩
    rw [if_neg (ne_false_of_eq_true hr), exec_events executed, emitted_decodePair]

end Sys2Proof.Machine

/-! SUPPORT. The counter (10_state.md section 6): `VB` moves with it, and only its phase can be observed. -/

namespace Sys2Proof.Machine

/-- The step from `s` to `t` left `CC` and `VB`, or advanced the one and set the other from it (R120, R121). -/
def VblankFollows (s t : State) : Prop :=
  (t.cpu.cc = s.cpu.cc ∧ t.cpu.vb = s.cpu.vb) ∨ (t.cpu.cc = s.cpu.cc + 1 ∧ t.cpu.vb = decide (t.cpu.cc % 64 < 8))

/-- `VB` after the epilogue follows the counter, if the counter was not touched before it. -/
theorem vblankFollows_epilogue {s u : State} (h : u.cpu.cc = s.cpu.cc) : VblankFollows s (epilogue u) :=
  .inr ⟨by rw [epilogue_cc, h], rfl⟩

theorem exec_vblankFollows (i : Instr) (s : State) : ∃ t, exec i s = .next t ∧ VblankFollows s t := by
  cases i with
  | nop | load | add | sub | cmp | inc | dec | ret | out | push | pop => exact ⟨_, rfl, vblankFollows_epilogue rfl⟩
  | jmp | call | halt | invalid => exact ⟨_, rfl, .inl ⟨rfl, rfl⟩⟩
  | store x => exact ⟨_, exec_store x s, vblankFollows_epilogue (storeGated_cc x s.cpu.a s)⟩
  | jz x =>
    refine ⟨_, exec_jz x s, ?_⟩
    split
    · exact .inl ⟨rfl, rfl⟩
    · exact vblankFollows_epilogue rfl
  | jnz x =>
    refine ⟨_, exec_jnz x s, ?_⟩
    split
    · exact vblankFollows_epilogue rfl
    · exact .inl ⟨rfl, rfl⟩

/-- Settles O34: a halted step leaves both, and a running one is an instruction's. -/
theorem vblankFollowsTheCounter : Obligations.VblankFollowsTheCounter := by
  intro s
  rcases step_cases s with ⟨-, halted⟩ | ⟨-, running⟩
  · exact ⟨s, halted, .inl ⟨rfl, rfl⟩⟩
  · rw [running]
    exact exec_vblankFollows _ s

/-- The outcomes are states alike but for `CC`, and there of equal phase: from `s` and from `s` with the counter
`k` (D5). -/
def SamePhase (o p : Host.Outcome State Fault Refusal) : Prop :=
  ∃ (t : State) (k : Nat), o = .next t ∧ p = .next (t.withCc k) ∧ k % 64 = t.cpu.cc % 64

/-- The epilogue reads the counter's phase alone, and advances it. -/
theorem epilogue_samePhase {u : State} {k : Nat} (phase : k % 64 = u.cpu.cc % 64) :
    SamePhase (.next (epilogue u)) (.next (epilogue (u.withCc k))) := by
  have next_phase : (k + 1) % 64 = (u.cpu.cc + 1) % 64 := by omega
  have vb : (epilogue (u.withCc k)).cpu.vb = (epilogue u).cpu.vb := by
    rw [epilogue_vb, epilogue_vb, State.withCc_cc, next_phase]
  exact ⟨epilogue u, k + 1, rfl,
    congrArg (fun b => Host.Outcome.next (((epilogue u).withCc (k + 1)).withVb b)) vb, next_phase⟩

theorem storeGated_withCc (b : Addr) (v : Byte) (s : State) (k : Nat) :
    storeGated b v (s.withCc k) = (storeGated b v s).withCc k := by
  rcases storeGated_cases b v s with ⟨gate, lands⟩ | ⟨inside, closed, denied⟩
  · rw [lands]
    exact storeGated_lands v gate
  · rw [denied]
    exact storeGated_denied v inside closed

theorem exec_samePhase (i : Instr) {s : State} {k : Nat} (phase : k % 64 = s.cpu.cc % 64) :
    SamePhase (exec i s) (exec i (s.withCc k)) := by
  cases i with
  | nop x => exact epilogue_samePhase phase
  | load x => exact epilogue_samePhase (u := setA (readByte s x) s) phase
  | store x =>
    rw [exec_store, exec_store, storeGated_withCc]
    exact epilogue_samePhase (phase.trans (congrArg (· % 64) (storeGated_cc x s.cpu.a s).symm))
  | add x => exact epilogue_samePhase (u := setA (s.cpu.a + readByte s x) s) phase
  | sub x => exact epilogue_samePhase (u := setA (s.cpu.a - readByte s x) s) phase
  | cmp x => exact epilogue_samePhase (u := s.withZ (compareFlag s.cpu.a (readByte s x))) phase
  | inc x => exact epilogue_samePhase (u := setA (s.cpu.a + 1) s) phase
  | dec x => exact epilogue_samePhase (u := setA (s.cpu.a - 1) s) phase
  | jmp | call | halt | invalid => exact ⟨_, k, rfl, rfl, phase⟩
  | jz x =>
    rw [exec_jz, exec_jz, State.withCc_z]
    split
    · exact ⟨_, k, rfl, rfl, phase⟩
    · exact epilogue_samePhase phase
  | jnz x =>
    rw [exec_jnz, exec_jnz, State.withCc_z]
    split
    · exact epilogue_samePhase phase
    · exact ⟨_, k, rfl, rfl, phase⟩
  | ret x => exact epilogue_samePhase (u := (popSp s).withPc (popped s)) phase
  | out x => exact epilogue_samePhase (u := emit (.out x (readByte s x)) s) phase
  | push x => exact epilogue_samePhase (u := (memWrite s.cpu.sp s.cpu.a s).withSp (spAfterPush s)) phase
  | pop x => exact epilogue_samePhase (u := setA (popped s) (popSp s)) phase

theorem step_samePhase {s : State} {k : Nat} (phase : k % 64 = s.cpu.cc % 64) :
    SamePhase (step s) (step (s.withCc k)) := by
  rcases step_cases s with ⟨hr, halted⟩ | ⟨hr, running⟩
  · exact ⟨s, k, halted, step_halted hr, phase⟩
  · have running' : step (s.withCc k) = exec (fetchInstr s) (s.withCc k) := step_running hr
    rw [running, running']
    exact exec_samePhase (fetchInstr s) phase

/-- Settles O43, by induction on the number of steps: the states after the first step are alike in the same way. -/
theorem onlyThePhaseOfTheCounterMatters : Obligations.OnlyThePhaseOfTheCounterMatters := by
  intro n
  induction n with
  | zero => exact fun s k phase => ⟨s, k, rfl, rfl, phase⟩
  | succ n ih =>
    intro s k phase
    obtain ⟨t, k', stepped, stepped', phase'⟩ := step_samePhase phase
    rw [run_succ n stepped, run_succ n stepped']
    exact ih t k' phase'

end Sys2Proof.Machine

/-! SUPPORT. What a step reads and where it writes in memory (20_memory.md section 5). -/

namespace Sys2Proof.Machine

/-- Where the write of two fetched bytes lands, by opcode number: a STORE's, and that of CALL and PUSH at `SP`
(R55). -/
theorem landsAt_decodePair (s : State) (op x : Byte) :
    landsAt s (decodePair op x) =
      if op.toNat = 0x02 then landsAt s (.store x)
      else if op.toNat = 0x0B ∨ op.toNat = 0x0E then some (pushAddr s) else none := by
  cases op using opcode_cases with
  | nop | load | store | add | sub | cmp | inc | dec | jmp | jz | jnz | call | ret | out | push | pop |
    halt => rfl
  | invalid op low high =>
    rw [decodePair_of_range low high, if_neg (by omega), if_neg (by omega), landsAt]

/-- A STORE's write lands at its operand address, if it lands. -/
theorem directAddr_of_landsAt_store {s : State} {x b : Addr} (h : landsAt s (.store x) = some b) :
    b = directAddr x := by
  obtain ⟨-, rfl⟩ : ¬ (0xE0 ≤ x.toNat ∧ s.cpu.vb = false) ∧ x = b := by simpa [landsAt] using h
  rfl

/-- Settles O36: a halted step changes nothing, and a running one only the byte where its write lands. -/
theorem onlyTheStoreAddressChanges : Obligations.OnlyTheStoreAddressChanges := by
  intro s
  rcases step_cases s with ⟨-, halted⟩ | ⟨hr, running⟩
  · exact ⟨s, halted, fun _ _ _ => rfl⟩
  · obtain ⟨t, executed, unchanged⟩ :=
      exec_readByte_of_not_landsAt (decodePair (readByte s s.cpu.pc) (readByte s (s.cpu.pc + 1))) s
    refine ⟨t, running.trans executed, fun b not_store not_push => unchanged b fun lands => ?_⟩
    rw [landsAt_decodePair] at lands
    split at lands
    next store => exact not_store ⟨hr, store, directAddr_of_landsAt_store lands⟩
    next =>
      split at lands
      next push => exact not_push ⟨hr, push, (Option.some.inj lands).symm⟩
      next => cases lands

/-- The data byte that the instruction reads: the operand's cell, or the byte above the stack (R38, R82). -/
def dataRead (s : State) : Instr → Option Addr
  | .load x | .add x | .sub x | .cmp x | .out x => some x
  | .ret _ | .pop _ => some (popAddr s)
  | .nop _ | .store _ | .inc _ | .dec _ | .jmp _ | .jz _ | .jnz _ | .call _ | .push _ | .halt _
  | .invalid _ _ => none

@[simp] theorem readByte_withMem (s : State) (m : Memory) (b : Addr) : readByte (s.withMem m) b = m.read b := rfl

/-- The gate does not look at memory (R126). -/
theorem storeGated_withMem (b : Addr) (v : Byte) (s : State) (m : Memory) :
    ∃ m', storeGated b v (s.withMem m) = (storeGated b v s).withMem m' := by
  rcases storeGated_cases b v s with ⟨gate, lands⟩ | ⟨inside, closed, denied⟩
  · rw [lands]
    exact ⟨_, storeGated_lands v gate⟩
  · rw [denied]
    exact ⟨m, storeGated_denied v inside closed⟩

/-- Two memories that agree on the instruction's data byte give states alike but for memory. -/
theorem exec_withMem {i : Instr} {s : State} {m : Memory}
    (agree : ∀ b, dataRead s i = some b → m.read b = readByte s b) :
    ∃ (t : State) (m' : Memory), exec i s = .next t ∧ exec i (s.withMem m) = .next (t.withMem m') := by
  cases i with
  | nop | inc | dec | jmp | call | push | halt | invalid => exact ⟨_, _, rfl, rfl⟩
  | load x => exact ⟨_, m, exec_load x s, by rw [exec_load, readByte_withMem, agree x rfl]; rfl⟩
  | store x =>
    obtain ⟨m', gated⟩ := storeGated_withMem x s.cpu.a s m
    refine ⟨_, m', exec_store x s, ?_⟩
    rw [exec_store, State.withMem_a, gated]
    rfl
  | add x => exact ⟨_, m, exec_add x s, by rw [exec_add, readByte_withMem, agree x rfl]; rfl⟩
  | sub x => exact ⟨_, m, exec_sub x s, by rw [exec_sub, readByte_withMem, agree x rfl]; rfl⟩
  | cmp x => exact ⟨_, m, exec_cmp x s, by rw [exec_cmp, readByte_withMem, agree x rfl]; rfl⟩
  | jz x =>
    refine ⟨_, m, exec_jz x s, ?_⟩
    rw [exec_jz, apply_ite (State.withMem · m)]
    rfl
  | jnz x =>
    refine ⟨_, m, exec_jnz x s, ?_⟩
    rw [exec_jnz, apply_ite (State.withMem · m)]
    rfl
  | ret x =>
    have address : popAddr (s.withMem m) = popAddr s := rfl
    refine ⟨_, m, exec_ret x s, ?_⟩
    rw [exec_ret, readByte_withMem, address, agree _ rfl]
    rfl
  | out x => exact ⟨_, m, exec_out x s, by rw [exec_out, readByte_withMem, agree x rfl]; rfl⟩
  | pop x =>
    have address : popAddr (s.withMem m) = popAddr s := rfl
    refine ⟨_, m, exec_pop x s, ?_⟩
    rw [exec_pop, readByte_withMem, address, agree _ rfl]
    rfl

/-- The data byte that two fetched bytes read, by opcode number (R55). -/
theorem dataRead_decodePair (s : State) (op x : Byte) :
    dataRead s (decodePair op x) =
      if op.toNat ∈ [0x01, 0x03, 0x04, 0x05, 0x0D] then some x
      else if op.toNat ∈ [0x0C, 0x0F] then some (popAddr s) else none := by
  cases op using opcode_cases with
  | nop | load | store | add | sub | cmp | inc | dec | jmp | jz | jnz | call | ret | out | push | pop |
    halt => rfl
  | invalid op low high =>
    rw [decodePair_of_range low high]
    simp only [List.mem_cons, List.not_mem_nil, or_false]
    rw [if_neg (by omega), if_neg (by omega), dataRead]

/-- Settles O44: both steps execute the same fetched bytes, in memories that agree on their data byte. -/
theorem stepReadsOnlyTheListedBytes : Obligations.StepReadsOnlyTheListedBytes := by
  rintro s m _ _ rfl rfl opcode operand direct stack
  rcases step_cases s with ⟨hr, halted⟩ | ⟨hr, running⟩
  · exact ⟨s, m, halted, step_halted hr⟩
  · have fetched : fetchInstr (s.withMem m) = decodePair (readByte s s.cpu.pc) (readByte s (s.cpu.pc + 1)) :=
      congrArg₂ decodePair opcode operand
    have still_running : (s.withMem m).cpu.run = true := hr
    rw [running, step_running still_running, fetched]
    refine exec_withMem fun b reads => ?_
    rw [dataRead_decodePair] at reads
    split at reads
    next listed => exact Option.some.inj reads ▸ direct listed
    next =>
      split at reads
      next listed => exact Option.some.inj reads ▸ stack listed
      next => cases reads

end Sys2Proof.Machine

/-! SUPPORT. The end of a run (40_step_cycle.md sections 1 and 3): which instructions clear `RUN`, and the cause that
the stream tells. -/

namespace Sys2Proof

/-- The instructions that clear `RUN` (R16). -/
def Instr.stops : Instr → Bool
  | .halt _ | .invalid _ _ => true
  | .nop _ | .load _ | .store _ | .add _ | .sub _ | .cmp _ | .inc _ | .dec _ | .jmp _ | .jz _ | .jnz _ | .call _
  | .ret _ | .out _ | .push _ | .pop _ => false

/-- The instructions that clear `RUN`, by opcode number (R55). -/
theorem decodePair_stops (op x : Byte) : (decodePair op x).stops = decide (0x10 ≤ op.toNat) := by
  cases op using opcode_cases with
  | nop | load | store | add | sub | cmp | inc | dec | jmp | jz | jnz | call | ret | out | push | pop |
    halt => rfl
  | invalid op low high =>
    rw [decodePair_of_range low high, Instr.stops, decide_eq_true low]

end Sys2Proof

namespace Sys2Proof.Machine

@[simp] theorem storeGated_run (b : Addr) (v : Byte) (s : State) : (storeGated b v s).cpu.run = s.cpu.run := by
  obtain ⟨m, es, frame⟩ := storeGated_frame b v s
  rw [frame]
  rfl

/-- An instruction clears `RUN` when it is one of the two that stop, and otherwise leaves it. -/
theorem exec_run (i : Instr) (s : State) :
    ∃ t, exec i s = .next t ∧ t.cpu.run = if i.stops = true then false else s.cpu.run := by
  cases i with
  | nop | load | add | sub | cmp | inc | dec | jmp | call | ret | out | push | pop => exact ⟨_, rfl, rfl⟩
  | halt | invalid => exact ⟨_, rfl, rfl⟩
  | store x => exact ⟨_, exec_store x s, storeGated_run x s.cpu.a s⟩
  | jz x =>
    refine ⟨_, exec_jz x s, ?_⟩
    split
    · rfl
    · rfl
  | jnz x =>
    refine ⟨_, exec_jnz x s, ?_⟩
    split
    · rfl
    · rfl

/-- Settles O39: nothing sets `RUN`, and the stopping instructions are those of the opcodes from 0x10 on. -/
theorem runIsClearedOnlyByHaltAndInvalid : Obligations.RunIsClearedOnlyByHaltAndInvalid := by
  intro s
  rcases step_cases s with ⟨hr, halted⟩ | ⟨hr, running⟩
  · exact ⟨s, halted, by simp [hr]⟩
  · obtain ⟨t, executed, run⟩ := exec_run (decodePair (readByte s s.cpu.pc) (readByte s (s.cpu.pc + 1))) s
    refine ⟨t, running.trans executed, ?_⟩
    rw [run, decodePair_stops]
    simp [hr]

/-- Settles O26, by induction on the number of steps. -/
theorem haltedMachineNeverChanges : Obligations.HaltedMachineNeverChanges := by
  intro n s hr
  induction n with
  | zero => rfl
  | succ n ih => rw [run_succ n (step_halted hr), ih]

/-- A running machine's halt has no cause yet (R75). -/
theorem haltCause_of_running {s : State} (hr : s.cpu.run = true) : s.haltCause = none := if_pos hr

/-- With no `IllegalOpcode` in the stream, a machine that stops has stopped cleanly (R73). -/
theorem haltCause_withRun_false {s : State} (h : ∀ e ∈ s.events, e.isIllegal = false) :
    (s.withRun false).haltCause = some .clean := by
  simp only [State.haltCause, State.withRun_run, State.withRun_events, Bool.false_eq_true, if_false]
  split
  next last => cases h _ (List.mem_of_getLast? last)
  next => rfl

/-- The exception leaves its own opcode and address as the cause (R116, R73). -/
theorem haltCause_raiseIllegalOpcode (op : Byte) (b : Addr) (s : State) :
    (raiseIllegalOpcode op b s).haltCause = some (.illegal op b) := by
  simp [State.haltCause, raiseIllegalOpcode_eq]

/-- Settles O40: a step below 0x10 keeps the machine running, HALT stops it on a stream without the exception's
event, and the exception's event is the last one. -/
theorem streamTellsTheHaltsApart : Obligations.StreamTellsTheHaltsApart := by
  rintro s _ ⟨-, -, streamOk⟩ hr rfl
  obtain ⟨t, stepped, run⟩ := runIsClearedOnlyByHaltAndInvalid s
  have executed : exec (decodePair (readByte s s.cpu.pc) (readByte s (s.cpu.pc + 1))) s = .next t :=
    (step_running hr).symm.trans stepped
  refine ⟨t, stepped, fun defined => haltCause_of_running (run.mpr ⟨hr, defined⟩), fun last => ?_, fun low high => ?_⟩
  · have opcode : readByte s s.cpu.pc = Opcode.halt := BitVec.eq_of_toNat_eq last
    rw [opcode] at executed
    obtain rfl : s.withRun false = t := Host.Outcome.next.inj executed
    exact haltCause_withRun_false ((State.streamOk_iff_of_running hr).mp streamOk)
  · rw [decodePair_of_range low (Nat.le_of_lt_succ high)] at executed
    obtain rfl := Host.Outcome.next.inj ((exec_invalid _ _ s).symm.trans executed)
    exact haltCause_raiseIllegalOpcode _ s.cpu.pc s

end Sys2Proof.Machine

/-! SUPPORT. CALL and RET, PUSH and POP together (43_control_transfer.md sections 5 and 6, 44_stack.md section 3). -/

namespace Sys2Proof.Machine

/-- Two past a return address is four past the CALL (conflict C2). -/
theorem nextPc_add_two_mod (s : State) : ((nextPc s).toNat + 2) % 256 = (s.cpu.pc.toNat + 4) % 256 := by
  rw [nextPc_toNat, Nat.mod_add_mod]

/-- A RET at the `SP` that a push left takes the byte at the old `SP`, resumes two past it and restores `SP`. -/
theorem exec_ret_after_push {s u : State} (x : Byte) (hsp : u.cpu.sp = spAfterPush s) :
    ∃ v, exec (.ret x) u = .next v ∧ v.cpu.pc.toNat = ((readByte u s.cpu.sp).toNat + 2) % 256 ∧
      v.cpu.sp = s.cpu.sp := by
  have address : popAddr u = s.cpu.sp := popAddr_of_sp_eq_spAfterPush hsp
  refine ⟨_, exec_ret x u, ?_⟩
  rw [address]
  exact ⟨nextPc_toNat _, rfl⟩

/-- A POP at the `SP` that a push left takes the byte at the old `SP` and restores `SP`. -/
theorem exec_pop_after_push {s u : State} (x : Byte) (hsp : u.cpu.sp = spAfterPush s) :
    ∃ v, exec (.pop x) u = .next v ∧ v.cpu.a = readByte u s.cpu.sp ∧ v.cpu.sp = s.cpu.sp := by
  have address : popAddr u = s.cpu.sp := popAddr_of_sp_eq_spAfterPush hsp
  refine ⟨_, exec_pop x u, ?_⟩
  rw [address]
  exact ⟨rfl, rfl⟩

/-- Settles O46: the byte at the old `SP` is the return address, and RET resumes two past it. -/
theorem retOfACallSkipsOneInstruction : Obligations.RetOfACallSkipsOneInstruction := by
  intro x y s
  refine ⟨_, exec_call x s, fun u hsp hbyte => ?_⟩
  have byte : readByte u s.cpu.sp = nextPc s :=
    hbyte.trans (readByte_memWrite_sp_withSp (nextPc s) (spAfterPush s) s)
  obtain ⟨v, executed, pc, sp⟩ := exec_ret_after_push y hsp
  rw [byte, nextPc_add_two_mod] at pc
  exact ⟨v, executed, pc, sp⟩

/-- Settles O47: each pop form reads at the old `SP`, whichever push form wrote there. -/
theorem pushFormsAndPopFormsMix : Obligations.PushFormsAndPopFormsMix := by
  intro x y s
  refine ⟨⟨_, exec_push x s, ?_⟩, ⟨_, exec_call x s, ?_⟩⟩
  · obtain ⟨v, executed, pc, sp⟩ := exec_ret_after_push (s := s)
      (u := epilogue ((memWrite s.cpu.sp s.cpu.a s).withSp (spAfterPush s))) y rfl
    rw [readByte_epilogue, readByte_memWrite_sp_withSp] at pc
    exact ⟨v, executed, pc, sp⟩
  · obtain ⟨v, executed, a, sp⟩ := exec_pop_after_push (s := s)
      (u := ((memWrite s.cpu.sp (nextPc s) s).withSp (spAfterPush s)).withPc x) y rfl
    have byte : v.cpu.a = nextPc s := a.trans (readByte_memWrite_sp_withSp (nextPc s) (spAfterPush s) s)
    refine ⟨v, executed, ?_, sp⟩
    rw [byte, nextPc_toNat]

end Sys2Proof.Machine

/-! SUPPORT. The canonical form of a memory (log entry 3): the data is determined by what each address reads as. -/

namespace Sys2Proof.Machine

/-- Below its lowest address a canonical memory lists nothing. -/
theorem Memory.read_of_lt_wfFrom {b : Addr} : ∀ {low : Nat} {m : Memory},
    Memory.wfFrom low m = true → b.toNat < low → Memory.read m b = Config.unlistedByte
  | _, [], _, _ => rfl
  | low, (k, v) :: rest, hm, hb => by
    obtain ⟨hlow, -, -, hrest⟩ := (Memory.wfFrom_cons low k v rest).mp hm
    rw [Memory.read_cons, if_neg (by omega), Memory.read_of_lt_wfFrom hrest (by omega)]

/-- The first entry of a canonical memory is read at its own address, and is not the unlisted byte. -/
theorem Memory.read_head_ne_unlisted {low k : Nat} {v : Byte} {m : Memory}
    (hm : Memory.wfFrom low ((k, v) :: m) = true) :
    Memory.read ((k, v) :: m) (BitVec.ofNat 8 k) = v ∧ v ≠ Config.unlistedByte := by
  obtain ⟨-, hk, hv, -⟩ := (Memory.wfFrom_cons low k v m).mp hm
  exact ⟨by rw [Memory.read_cons, if_pos (by simp; omega)], hv⟩

/-- If the lowest listed address of one canonical memory is below everything that the other lists, they read
differently there. -/
theorem Memory.exists_read_ne_of_lt {low k high : Nat} {v : Byte} {m n : Memory}
    (hm : Memory.wfFrom low ((k, v) :: m) = true) (hn : Memory.wfFrom high n = true) (hlt : k < high) :
    ∃ b : Addr, Memory.read ((k, v) :: m) b ≠ Memory.read n b := by
  obtain ⟨head, listed⟩ := Memory.read_head_ne_unlisted hm
  obtain ⟨-, hk, -, -⟩ := (Memory.wfFrom_cons low k v m).mp hm
  refine ⟨BitVec.ofNat 8 k, ?_⟩
  rw [head, Memory.read_of_lt_wfFrom hn (by simp; omega)]
  exact listed

/-- Two canonical memories that read the same everywhere are the same list, by recursion over both. -/
theorem Memory.eq_of_read_eq : ∀ {low : Nat} {m n : Memory},
    Memory.wfFrom low m = true → Memory.wfFrom low n = true →
      (∀ b : Addr, Memory.read m b = Memory.read n b) → m = n
  | _, [], [], _, _, _ => rfl
  | _, [], (k, v) :: n, hm, hn, same => by
    obtain ⟨b, differ⟩ := Memory.exists_read_ne_of_lt (n := []) (high := k + 1) hn rfl (Nat.lt_succ_self k)
    exact absurd (same b).symm differ
  | _, (k, v) :: m, [], hm, hn, same => by
    obtain ⟨b, differ⟩ := Memory.exists_read_ne_of_lt (n := []) (high := k + 1) hm rfl (Nat.lt_succ_self k)
    exact absurd (same b) differ
  | low, (k, v) :: m, (l, w) :: n, hm, hn, same => by
    obtain ⟨hk, hk256, hv, hrest⟩ := (Memory.wfFrom_cons low k v m).mp hm
    obtain ⟨hl, hl256, hw, hrest'⟩ := (Memory.wfFrom_cons low l w n).mp hn
    rcases Nat.lt_trichotomy k l with hlt | rfl | hlt
    · have above : Memory.wfFrom l ((l, w) :: n) = true :=
        (Memory.wfFrom_cons l l w n).mpr ⟨le_rfl, hl256, hw, hrest'⟩
      obtain ⟨b, differ⟩ := Memory.exists_read_ne_of_lt hm above hlt
      exact absurd (same b) differ
    · have heads : v = w := by
        rw [← (Memory.read_head_ne_unlisted hm).1, same, (Memory.read_head_ne_unlisted hn).1]
      have tails : m = n := by
        refine Memory.eq_of_read_eq hrest hrest' fun b => ?_
        by_cases hb : k = b.toNat
        · rw [Memory.read_of_lt_wfFrom hrest (by omega), Memory.read_of_lt_wfFrom hrest' (by omega)]
        · simpa [Memory.read_cons, hb] using same b
      rw [heads, tails]
    · have above : Memory.wfFrom k ((k, v) :: m) = true :=
        (Memory.wfFrom_cons k k v m).mpr ⟨le_rfl, hk256, hv, hrest⟩
      obtain ⟨b, differ⟩ := Memory.exists_read_ne_of_lt hn above hlt
      exact absurd (same b).symm differ

/-- Settles O32: both memories are canonical from address 0 on. -/
theorem canonicalMemoryIsUnique : Obligations.CanonicalMemoryIsUnique := fun _ _ hm hk same =>
  Memory.eq_of_read_eq hm hk same

end Sys2Proof.Machine

/-! SUPPORT. Reset, the host's writes and the loader (60_exceptions.md section 11, 70_reset_and_hazards.md): what each
leaves, and that each keeps the invariant. -/

namespace Sys2Proof.Machine

/-- Settles O29: the counter and `VB` start in phase 0, and the stream is empty. -/
theorem resetMeetsTheInvariant : Obligations.ResetMeetsTheInvariant := fun _ _ _ _ hm => ⟨hm, rfl, rfl⟩

/-- Settles O51: each parameter stands in its own item. -/
theorem resetLeavesTheGivenValues : Obligations.ResetLeavesTheGivenValues :=
  ⟨fun _ _ _ _ => ⟨_, rfl, rfl, rfl, rfl, rfl, rfl, rfl, rfl, fun _ => rfl, rfl⟩, rfl, fun _ => rfl⟩

/-- A host write is taken while the machine runs, and has its effect (R154, R155). -/
theorem hostWrite_running (w : HostWrite) {s : State} (hr : s.cpu.run = true) :
    hostWrite w s = some (applyHostWrite w s) := if_pos hr

theorem hostWrite_halted (w : HostWrite) {s : State} (hr : s.cpu.run = false) : hostWrite w s = none :=
  if_neg (ne_true_of_eq_false hr)

theorem memWrite_sameMemBut (b : Addr) (v : Byte) (s : State) : SameMemBut b s (memWrite b v s) := fun c other =>
  (readByte_memWrite b c v s).trans (if_neg other)

/-- Settles O52: each write is one setter of the state. -/
theorem hostWritesOnlyWhatItNames : Obligations.HostWritesOnlyWhatItNames := by
  refine ⟨fun w _ hr => hostWrite_halted w hr, fun s hr => ⟨fun b v => ?_, fun v => ?_, fun v => ?_, fun v => ?_⟩⟩
  · have written : readByte (memWrite b v s) b = v := (readByte_memWrite b b v s).trans (if_pos rfl)
    exact ⟨_, hostWrite_running (.mem b v) hr, written, memWrite_sameMemBut b v s, rfl, rfl⟩
  · exact ⟨_, hostWrite_running (.acc v) hr, rfl, zeroFlag_eq v, rfl, rfl⟩
  · exact ⟨_, hostWrite_running (.pc v) hr, rfl, rfl, rfl⟩
  · exact ⟨_, hostWrite_running (.sp v) hr, rfl, rfl, rfl⟩

theorem applyHostWrite_inv (w : HostWrite) {s : State} (h : s.Inv) : (applyHostWrite w s).Inv := by
  cases w with
  | mem b v => exact memWrite_inv b v h
  | acc v => exact (inv_setA v s).mpr h
  | pc v => exact (inv_withPc v s).mpr h
  | sp v => exact (inv_withSp v s).mpr h

theorem copyImage_wf (addr : Addr) (image : List Byte) {m : Memory} (h : m.wf = true) :
    (copyImage addr image m).wf = true := by
  induction image generalizing addr m with
  | nil => exact h
  | cons v rest ih => exact ih (addr + 1) (Memory.wf_write addr v h)

/-- A loaded file writes memory and `PC` only, and a rejected one nothing. -/
theorem loadFile_inv (file : List Byte) {s : State} (h : s.Inv) : (loadFile file s).1.Inv := by
  obtain ⟨hmem, hvb, hev⟩ := h
  unfold loadFile
  split
  next c _ => exact ⟨copyImage_wf c.loadAddr c.image hmem, hvb, hev⟩
  next => exact ⟨hmem, hvb, hev⟩

/-- Settles O31: a host write taken is one of the setters, and the loader copies by plain writes. -/
theorem hostWritesAndLoaderKeepTheInvariant : Obligations.HostWritesAndLoaderKeepTheInvariant := by
  refine fun s h => ⟨fun w t taken => ?_, fun file => loadFile_inv file h⟩
  cases hr : s.cpu.run with
  | false => cases (hostWrite_halted w hr).symm.trans taken
  | true =>
    obtain rfl := Option.some.inj ((hostWrite_running w hr).symm.trans taken)
    exact applyHostWrite_inv w h

/-- Settles O53: the magic is checked first. -/
theorem badMagicIsRejectedUnchanged : Obligations.BadMagicIsRejectedUnchanged := by
  intro file s bad
  have rejected : parseContainer file = .error .badMagic := if_pos bad
  rw [loadFile, rejected]

/-- A file of the good form is read as its header fields and the first `size` bytes after them (R176). -/
theorem parseContainer_good (version load entry size pad : Byte) {body : List Byte}
    (long : size.toNat ≤ body.length) (fits : load.toNat + size.toNat ≤ 256) :
    parseContainer (0x54 :: 0x34 :: 0x43 :: version :: load :: entry :: size :: pad :: body) =
      .ok ⟨version, load, entry, pad, body.take size.toNat⟩ := by
  have short_not : ¬ body.length < size.toNat := not_lt.mpr long
  have past_not : ¬ Config.memSize < load.toNat + size.toNat := not_lt.mpr fits
  simp [parseContainer, Config.magic, short_not, past_not]

/-- An image of at most 256 bytes stands from its first address on, modulo 256, and the bytes outside it are
unchanged. -/
theorem read_copyImage (image : List Byte) (addr b : Addr) (m : Memory) (fits : image.length ≤ 256) :
    (copyImage addr image m).read b =
      if (b - addr).toNat < image.length then image.getD (b - addr).toNat 0 else m.read b := by
  induction image generalizing addr m with
  | nil => rfl
  | cons v rest ih =>
    rw [List.length_cons] at fits
    rw [copyImage, ih (addr + 1) (m.write addr v) (by omega), Memory.read_write, List.length_cons]
    by_cases hb : b = addr
    · have offset : (b - addr).toNat = 0 := by simp [hb]
      have past : (b - (addr + 1)).toNat = 255 := by simp [hb]
      rw [offset, past, if_neg (by omega), if_pos hb, if_pos (by omega), List.getD_cons_zero]
    · have differ : b.toNat ≠ addr.toNat := fun same => hb (BitVec.eq_of_toNat_eq same)
      have offset : (b - addr).toNat = (b - (addr + 1)).toNat + 1 := by
        have one : (1 : Addr).toNat = 1 := rfl
        rw [BitVec.toNat_sub, BitVec.toNat_sub, BitVec.toNat_add, one]
        omega
      rw [offset, if_neg hb, List.getD_cons_succ]
      simp only [Nat.add_lt_add_iff_right]

/-- An image that ends at the top or below it stands between two addresses. -/
theorem read_copyImage_of_fits (image : List Byte) (addr b : Addr) (m : Memory)
    (fits : addr.toNat + image.length ≤ 256) :
    (copyImage addr image m).read b =
      if addr.toNat ≤ b.toNat ∧ b.toNat < addr.toNat + image.length then image.getD (b.toNat - addr.toNat) 0
      else m.read b := by
  rw [read_copyImage image addr b m (by omega)]
  by_cases inside : addr.toNat ≤ b.toNat ∧ b.toNat < addr.toNat + image.length
  · have offset : (b - addr).toNat = b.toNat - addr.toNat := BitVec.toNat_sub_of_le inside.1
    rw [if_pos inside, offset, if_pos (by omega)]
  · rw [if_neg inside, if_neg]
    rw [BitVec.toNat_sub]
    omega

/-- Settles O54: the image is the first `size` bytes of the body, copied to where it fits. -/
theorem goodContainerIsCopiedAndEntered : Obligations.GoodContainerIsCopiedAndEntered := by
  intro version load entry size pad body s long fits
  have image_length : (body.take size.toNat).length = size.toNat := List.length_take_of_le long
  rw [loadFile, parseContainer_good version load entry size pad long fits]
  refine ⟨_, rfl, rfl, fun b => ?_, rfl, rfl⟩
  refine (read_copyImage_of_fits (body.take size.toNat) load b s.cpu.mem (by rwa [image_length])).trans ?_
  rw [image_length]
  split
  next inside =>
    have in_image : b.toNat - load.toNat < size.toNat := by omega
    simp [List.getD_eq_getElem?_getD, in_image]
  next => rfl

end Sys2Proof.Machine

/-! SUPPORT. The host's two views of memory: the framebuffer (20_memory.md section 8) and the listing (30_encoding.md
section 6). -/

namespace Sys2Proof.Machine

theorem pixelIndex_eq (x y : Fin 16) : pixelIndex x y = y.val * 16 + x.val := rfl

/-- The address of a pixel's byte: two bytes a row, eight columns a byte (R46). -/
theorem pixelAddr_toNat (x y : Fin 16) : (pixelAddr x y).toNat = 0xE0 + 2 * y.val + x.val / 8 := by
  have base : Config.vramBase.toNat = 0xE0 := rfl
  rw [pixelAddr, BitVec.toNat_add, base, BitVec.toNat_ofNat, Nat.shiftRight_eq_div_pow, pixelIndex_eq]
  omega

/-- A pixel's bit is its column modulo 8 (R46, D20). -/
theorem pixelBit_eq (x y : Fin 16) : pixelBit x y = x.val % 8 := by
  rw [pixelBit, Nat.and_two_pow_sub_one_eq_mod _ 3, pixelIndex_eq]
  omega

/-- Settles O55: the bit tested is a binary digit of the row byte's number. -/
theorem pixelIsTheBitOfItsRowByte : Obligations.PixelIsTheBitOfItsRowByte := by
  intro m x y b hb
  obtain rfl : pixelAddr x y = b := BitVec.eq_of_toNat_eq ((pixelAddr_toNat x y).trans hb.symm)
  rw [pixel, pixelBit_eq, BitVec.getLsbD, Nat.testBit_eq_decide_div_mod_eq]

/-- The address of line `k` of a listing: `2 * k` past its start, modulo 256 (R61). -/
def lineAddr (addr : Addr) (k : Nat) : Addr := addr + BitVec.ofNat 8 (2 * k)

theorem lineAddr_succ (addr : Addr) (k : Nat) : lineAddr (addr + Config.insnLen) k = lineAddr addr (k + 1) := by
  apply BitVec.eq_of_toNat_eq
  have stride : Config.insnLen.toNat = 2 := rfl
  rw [lineAddr, lineAddr, BitVec.toNat_add, BitVec.toNat_add, BitVec.toNat_add, stride, BitVec.toNat_ofNat,
    BitVec.toNat_ofNat]
  omega

/-- Line `k` holds its address and what the decoder reads there. -/
theorem disassemble_getElem? (m : Memory) (addr : Addr) {n k : Nat} (h : k < n) :
    (disassemble m addr n)[k]? =
      some (lineAddr addr k, decodePair (m.read (lineAddr addr k)) (m.read (lineAddr addr k + 1))) := by
  induction n generalizing addr k with
  | zero => exact absurd h (Nat.not_lt_zero k)
  | succ n ih =>
    cases k with
    | zero => simp [disassemble, lineAddr]
    | succ k =>
      rw [disassemble, List.getElem?_cons_succ, ih (addr + Config.insnLen) (Nat.lt_of_succ_lt_succ h), lineAddr_succ]

/-- Settles O56: the two bytes of line `k` stand at its address and one past it. -/
theorem listingAgreesWithTheDecoder : Obligations.ListingAgreesWithTheDecoder := by
  intro m addr n k h
  refine ⟨lineAddr addr k, lineAddr addr k + 1, _, ?_, ?_, rfl, disassemble_getElem? m addr h⟩
  · simp [lineAddr, BitVec.toNat_add]
  · simp [lineAddr, BitVec.toNat_add]

end Sys2Proof.Machine

/-! SUPPORT. The remaining instructions, one by one (41_load_store.md, 43_control_transfer.md, 44_stack.md,
45_system.md), and the word placed at the fetch. -/

namespace Sys2Proof.Machine

/-- Settles O2: with the switch at its decided value (D1) LOAD is the flag-updating setter. -/
theorem loadCopiesTheByteAndRecomputesZ : Obligations.LoadCopiesTheByteAndRecomputesZ := fun x s =>
  ⟨_, exec_load x s, rfl, zeroFlag_eq _, epilogue_setA_frame (readByte s x) s⟩

/-- Settles O3: the two outcomes of the gate, each followed by the epilogue. -/
theorem storeWritesThroughTheFramebufferGate : Obligations.StoreWritesThroughTheFramebufferGate := by
  intro x s
  refine ⟨_, exec_store x s, rfl, ?_⟩
  rcases storeGated_cases x s.cpu.a s with ⟨gate, lands⟩ | ⟨inside, closed, denied⟩
  · have written : readByte (memWrite x s.cpu.a s) x = s.cpu.a := (readByte_memWrite x x s.cpu.a s).trans (if_pos rfl)
    rw [lands, if_neg gate]
    exact ⟨memWrite_sameMemBut x s.cpu.a s, ⟨written, rfl⟩, epilogue_counted rfl, rfl, rfl, rfl, rfl⟩
  · rw [denied, if_pos ⟨inside, closed⟩]
    exact ⟨fun _ _ => rfl, ⟨rfl, rfl⟩, epilogue_counted rfl, rfl, rfl, rfl, rfl⟩

/-- Settles O12: the ungated push of the return address, then the jump. -/
theorem callPushesTheReturnAddressAndJumps : Obligations.CallPushesTheReturnAddressAndJumps := by
  intro x s
  have pushed : readByte ((memWrite s.cpu.sp (nextPc s) s).withSp (spAfterPush s)) s.cpu.sp = nextPc s :=
    readByte_memWrite_sp_withSp (nextPc s) (spAfterPush s) s
  exact ⟨_, exec_call x s, rfl, memWrite_sameMemBut s.cpu.sp (nextPc s) s,
    (congrArg BitVec.toNat pushed).trans (nextPc_toNat s), spAfterPush_toNat s, ⟨rfl, rfl, rfl⟩, rfl, rfl, rfl, rfl⟩

/-- Settles O15: the ungated push of `A`, then the epilogue. -/
theorem pushWritesAThenDecrementsSp : Obligations.PushWritesAThenDecrementsSp := fun x s =>
  ⟨_, exec_push x s, rfl, memWrite_sameMemBut s.cpu.sp s.cpu.a s,
    readByte_memWrite_sp_withSp s.cpu.a (spAfterPush s) s, spAfterPush_toNat s,
    epilogue_counted rfl, rfl, rfl, rfl, rfl⟩

/-- Settles O14: one event, then the epilogue. -/
theorem outReportsTheMemoryByte : Obligations.OutReportsTheMemoryByte := fun x s =>
  ⟨_, exec_out x s, emit_events _ s, epilogue_counted rfl, rfl, rfl, rfl, rfl, fun _ => rfl⟩

/-- Settles O17: HALT writes `RUN` alone. -/
theorem haltClearsRunAndNothingElse : Obligations.HaltClearsRunAndNothingElse := fun x s =>
  ⟨_, exec_halt x s, rfl, ⟨rfl, rfl, rfl⟩, rfl, rfl, rfl, rfl, fun _ => rfl⟩

/-- Settles O18: the exception writes `RUN` and the stream alone. -/
theorem invalidOpcodeHaltsAndReports : Obligations.InvalidOpcodeHaltsAndReports := fun op x s _ _ =>
  ⟨_, exec_invalid op x s, rfl, rfl, ⟨rfl, rfl, rfl⟩, rfl, rfl, rfl, fun _ => rfl⟩

/-- Settles O41: the exception is HALT with one event more. -/
theorem theTwoHaltsLeaveTheSameCpuState : Obligations.TheTwoHaltsLeaveTheSameCpuState := by
  intro op x y s
  refine ⟨_, _, exec_halt x s, exec_invalid op y s, rfl, ?_⟩
  rw [raiseIllegalOpcode_eq]
  simp

/-- Settles O19: the meaning of each of these does not name its second byte. -/
theorem ignoredSecondByteHasNoEffect : Obligations.IgnoredSecondByteHasNoEffect := fun op x y s =>
  ⟨⟨_, exec_nop x s, exec_nop y s⟩, ⟨_, exec_inc x s, exec_inc y s⟩, ⟨_, exec_dec x s, exec_dec y s⟩,
    ⟨_, exec_ret x s, exec_ret y s⟩, ⟨_, exec_push x s, exec_push y s⟩, ⟨_, exec_pop x s, exec_pop y s⟩,
    ⟨_, exec_halt x s, exec_halt y s⟩, ⟨_, exec_invalid op x s, exec_invalid op y s⟩⟩

/-- The two bytes of the table's word are taken apart again (R51). -/
theorem withFetchWord_eq (s : State) (op x : Byte) :
    s.withFetchWord 16 (op.toNat * 256 + x.toNat) = placeAtFetch op x s := by
  have opcode : tableWordOpcode 16 (op.toNat * 256 + x.toNat) = op := by
    apply BitVec.eq_of_toNat_eq
    rw [tableWordOpcode, BitVec.toNat_ofNat]
    omega
  have operand : tableWordOperand 16 (op.toNat * 256 + x.toNat) = x := by
    apply BitVec.eq_of_toNat_eq
    rw [tableWordOperand, BitVec.toNat_ofNat]
    omega
  rw [State.withFetchWord, opcode, operand]

/-- The operand byte is written over the opcode byte's memory. -/
theorem readByte_placeAtFetch (op x b : Byte) (s : State) :
    readByte (placeAtFetch op x s) b =
      if b = s.cpu.pc + 1 then x else if b = s.cpu.pc then op else readByte s b :=
  (readByte_memWrite (operandAddr s) b x (memWrite (opcodeAddr s) op s)).trans
    (congrArg (ite (b = s.cpu.pc + 1) x) (readByte_memWrite (opcodeAddr s) b op s))

/-- Settles O25: the placed state runs, and its fetch reads the two bytes placed. -/
theorem placedWordIsExecutedNext : Obligations.PlacedWordIsExecutedNext := by
  intro s op x
  have opcode : readByte (placeAtFetch op x s) s.cpu.pc = op := by
    rw [readByte_placeAtFetch, if_neg (by simp), if_pos rfl]
  have operand : readByte (placeAtFetch op x s) (s.cpu.pc + 1) = x := by
    rw [readByte_placeAtFetch, if_pos rfl]
  have fetched : fetchInstr (placeAtFetch op x s) = decodePair op x := congrArg₂ decodePair opcode operand
  have stepped : step (placeAtFetch op x s) = exec (decodePair op x) (placeAtFetch op x s) := by
    rw [step_running rfl, fetched]
  refine ⟨placeAtFetch op x s, (withFetchWord_eq s op x).symm, opcode, operand, ⟨_, rfl, stepped⟩, ?_,
    rfl, rfl, rfl, rfl, rfl, rfl, rfl, rfl⟩
  intro b not_opcode not_operand
  rw [readByte_placeAtFetch, if_neg not_operand, if_neg not_opcode]

end Sys2Proof.Machine

/-! SUPPORT. The spec's two switches, at both values (92_eei_decisions.md D1, D2). -/

namespace Sys2Proof.Machine

/-- With its write gated a push is the gate's write at `SP`, then the decrement (D2's other value). -/
theorem pushByte_gated (v : Byte) (s : State) :
    pushByte true v s = (storeGated s.cpu.sp v s).withSp (spAfterPush s) := rfl

/-- Settles O57: LOAD's switch decides about `Z` alone, and the stack's about a write that the gate denies. -/
theorem switchesDifferOnlyWhereTheSpecSays : Obligations.SwitchesDifferOnlyWhereTheSpecSays := by
  refine ⟨fun v s => ⟨loadA_true v s, rfl, s.cpu.z, rfl⟩, fun v s => ⟨fun gate => ?_, fun inside closed => ?_⟩⟩
  · rw [pushByte_gated, storeGated_lands v gate]
    rfl
  · rw [pushByte_gated, storeGated_denied v inside closed]
    exact ⟨fun _ => rfl, rfl, rfl⟩

end Sys2Proof.Machine
